-- ==== Sys2Proof/Word.lean ====
section
/-! DEFINITION. The byte, and byte sequences (00_scope.md R13, R14). -/

namespace Sys2Proof

/-- A byte: eight bits, bit 0 the least significant, read as an unsigned number 0..255 (R13).
Subtraction and exclusive-or of bytes are those of `BitVec 8`: both wrap in eight bits (R16). -/
abbrev Byte := BitVec 8

/-- A byte sequence, index 0 first (R14). -/
abbrev Bytes := List Byte

end Sys2Proof
end

