-- ==== Sys2Proof/Config.lean ====
section
/-! DEFINITION. What one MFC instance fixes (00_scope.md section 3): the OPEN parameters, of which
nothing but the stated constraints is known, and the constants the spec settles. -/

namespace Sys2Proof.Config

/-- The OPEN parameters of an instance (R5, R8, R10, R11, R12). -/
structure Params where
  /-- `START_BYTE`, the sentinel (R5). -/
  startByte : Byte
  /-- `CRC_TABLE`, the 256-entry ROM, uninterpreted (R8, R25). -/
  crcTable : Byte → Byte
  /-- The numbering of the frame types (R10): the codes of NETWORK_QUERY, SET, GET and NOTIFY are the
  images of 0, 1, 2 and 3. A permutation of the bytes carries exactly what R10 allows to be assumed:
  the images are pairwise distinct, and any four distinct bytes are such images. DEDUCED (log entry 6), safe. -/
  typeCode : Equiv.Perm Byte
  /-- `NQ_REPLY_BODY`, 20 bytes (R11). -/
  nqReplyBody : Vector Byte 20
  /-- `PROTO_VER_RESET` (R12). -/
  protoVerReset : Byte
  deriving Inhabited

/-- `FT_NETWORK_QUERY` (R10). -/
def Params.ftNetworkQuery (P : Params) : Byte := P.typeCode 0

/-- `FT_SET` (R10). -/
def Params.ftSet (P : Params) : Byte := P.typeCode 1

/-- `FT_GET` (R10). -/
def Params.ftGet (P : Params) : Byte := P.typeCode 2

/-- `FT_NOTIFY` (R10). -/
def Params.ftNotify (P : Params) : Byte := P.typeCode 3

/-- The parameters of the MFC instance the machine is: no value of theirs can be proved
(log entry 5), so a theorem about the machine holds for every instance. -/
opaque mfc : Params

/-- `HEADER_SIZE` = 10 (R6; the spec's decision D3; log entry 7). -/
abbrev headerSize : Nat := 10

/-- `BUF_CEILING` = 1024 (R7; the spec's decision D7; log entry 8). -/
abbrev bufCeiling : Nat := 1024

/-- `CRC_INIT` = 0x00 (R9; the spec's decision D9; log entry 9). -/
abbrev crcInit : Byte := 0x00

/-- `SUM_INIT` = 0x00 (R9; the spec's decision D10; log entry 9). -/
abbrev sumInit : Byte := 0x00

/-- `PROBE_BODY`: 30 bytes, `01 01` and 28 zeros (R11). -/
def probeBody : Bytes := 0x01 :: 0x01 :: List.replicate 28 0x00

/-- The actions whose bodies the host hands to `TX.BODY FT_SET` (30_encoding.md R67). -/
inductive Action where
  | statusOn
  | statusOff
  | heater (on : Bool)
  | heaterTarget (v : Int)
  | waterTarget (v : Int)
  deriving DecidableEq, Repr

/-- The 30-byte body of an action (R67); the host builds it, MFC only frames it. -/
def actionBody : Action → Bytes
  | .statusOn => 0x01 :: 0x01 :: List.replicate 28 0x00
  | .statusOff => 0x02 :: 0x01 :: List.replicate 28 0x00
  | .heater true => 0x04 :: 0x01 :: 0x01 :: List.replicate 27 0x00
  | .heater false => 0x04 :: 0x01 :: 0x02 :: List.replicate 27 0x00
  | .heaterTarget v => 0x04 :: 0x13 :: BitVec.ofInt 8 (max 30 (min v 80)) :: List.replicate 27 0x00
  | .waterTarget v => 0x04 :: 0x12 :: BitVec.ofInt 8 (max 35 (min v 60)) :: List.replicate 27 0x00

end Sys2Proof.Config
end

