-- ==== Sys2Proof/Syntax.lean ====
section
/-! DEFINITION. The instructions: one constructor of `Instr` per row of spec/opcode_table.json. -/

namespace Sys2Proof

/-- The five `syncField` bytes, named by their frame offsets 3 to 7 (30_encoding.md R60). MFC copies
them in stream order and never reads them as a number (20_memory.md R43). -/
structure Sync where
  s3 : Byte
  s4 : Byte
  s5 : Byte
  s6 : Byte
  s7 : Byte
  deriving DecidableEq, Repr

/-- What a wire frame carries beside its type byte (R60); the sentinel, the length and the trailing
checksum are determined by the rest. -/
structure FrameFields where
  id : Byte
  sync : Sync
  ver : Byte
  payload : Bytes
  deriving DecidableEq, Repr

/-- The ten header bytes of a wire frame, sentinel included (R60, R61). -/
structure Header where
  start : Byte
  length : Byte
  id : Byte
  sync : Sync
  ver : Byte
  type : Byte
  deriving DecidableEq, Repr

/-- `EV_FRAME.class` (R65, 43_frame_parser.md R117). -/
inductive FrameClass where
  | netq
  | telemetry
  | other
  deriving DecidableEq, Repr

/-- The operations that have an `op` value (30_encoding.md R69). -/
inductive Opcode where
  | reset
  | cfgId
  | crcClr
  | crcUpd
  | crcRd
  | sumClr
  | sumUpd
  | sumRd
  | sumChk
  | rxAppend
  | parseStep
  | parseRun
  | txFrame
  | txBody
  | txProbe
  deriving DecidableEq, Repr

/-- The instructions, in the table's order. The operations are R69's; `rxFlush` and `txNqReply` are the
two internal micro-operations (log entry 13); `badOp` is the row of every unlisted `op` value; the
`frame…` constructors are the rows of format WIRE, each an accepted frame of that row (log entries 11, 12). -/
inductive Instr where
  | reset
  | cfgId (id : Byte)
  | crcClr
  | crcUpd (b : Byte)
  | crcRd
  | sumClr
  | sumUpd (b : Byte)
  | sumRd
  | sumChk (t : Byte)
  | rxAppend (chunk : Bytes)
  | parseStep
  | parseRun
  | txFrame (type : Byte) (payload : Bytes)
  | txBody (type : Byte) (body : Bytes)
  | txProbe
  | rxFlush
  | txNqReply
  | badOp (op : Byte)
  | frameAny (type : Byte) (w : FrameFields)
  | frameNetq (w : FrameFields)
  | frameSet (w : FrameFields)
  | frameGet (w : FrameFields)
  | frameNotify (w : FrameFields)
  | frameOther (type : Byte) (w : FrameFields)
  deriving DecidableEq, Repr

/-- The table's `format` column: a command (OP), an internal micro-operation (INTERNAL) or a wire frame (WIRE). -/
inductive Form where
  | op
  | internal
  | wire
  deriving DecidableEq, Repr

/-- The format of an instruction's row. -/
def Instr.form : Instr → Form
  | .reset => .op
  | .cfgId _ => .op
  | .crcClr => .op
  | .crcUpd _ => .op
  | .crcRd => .op
  | .sumClr => .op
  | .sumUpd _ => .op
  | .sumRd => .op
  | .sumChk _ => .op
  | .rxAppend _ => .op
  | .parseStep => .op
  | .parseRun => .op
  | .txFrame _ _ => .op
  | .txBody _ _ => .op
  | .txProbe => .op
  | .rxFlush => .internal
  | .txNqReply => .internal
  | .badOp _ => .op
  | .frameAny _ _ => .wire
  | .frameNetq _ => .wire
  | .frameSet _ => .wire
  | .frameGet _ => .wire
  | .frameNotify _ => .wire
  | .frameOther _ _ => .wire

/-- Why a command packet is no command (R69 gives such a packet no meaning; log entry 2). -/
inductive CommandReject where
  /-- The packet is empty: there is no `op` byte. -/
  | noOpByte
  /-- The operand byte the operation needs is absent. -/
  | missingOperand
  /-- Bytes follow an operation that has no operand left to take them. -/
  | surplusOperand
  deriving DecidableEq, Repr

/-- Why a byte sequence is not one whole valid frame (R60, R61, R63). -/
inductive FrameReject where
  | shortHeader
  | noSentinel
  | badLength
  | shortBody
  | surplusBytes
  | badSum
  deriving DecidableEq, Repr

end Sys2Proof
end

