-- ==== Sys2Proof/Decode.lean ====
section
/-! DEFINITION. The two decoders and, after them, the encoder: commands (30_encoding.md R69) and wire
frames (R60 to R65). The sequence functions of 00_scope.md R14 and the checksum of 41_checksum.md R90
stand here because the frame encoding needs them. -/

namespace Sys2Proof

open Config (Params headerSize)

/-! ### Sequences (R14) -/

/-- `s[i..j)`: the elements at indices i, …, j-1; empty when j ≤ i. -/
def slice (s : Bytes) (i j : Nat) : Bytes := (s.take j).drop i

/-- `find(s, v)`: the least index holding v, or NONE. -/
def find (s : Bytes) (v : Byte) : Option Nat := s.findIdx? (fun b => decide (b = v))

/-- `zeros(n)`. -/
def zeros (n : Nat) : Bytes := List.replicate n 0x00

/-! ### The checksum (41_checksum.md R90, R95) -/

/-- The loop of R90 started at `a`: each byte is subtracted modulo 256. -/
def checksumFrom (a : Byte) (s : Bytes) : Byte := s.foldl (fun a b => a - b) a

/-- `checksum(s)` (R90). -/
def checksum (s : Bytes) : Byte := checksumFrom Config.sumInit s

/-- `validate(f)` (R95): the last byte is the checksum of those before it. R95 defines it for length ≥ 1
only: on the empty sequence there is no answer (log entry 28). -/
def validate (f : Bytes) : Option Bool :=
  f.getLast?.map (fun c => decide (checksum f.dropLast = c))

/-! ### Commands -/

/-- The `op` value of an operation (R69). -/
def Opcode.code : Opcode → Byte
  | .reset => 0x00
  | .cfgId => 0x01
  | .crcClr => 0x10
  | .crcUpd => 0x11
  | .crcRd => 0x12
  | .sumClr => 0x20
  | .sumUpd => 0x21
  | .sumRd => 0x22
  | .sumChk => 0x23
  | .rxAppend => 0x30
  | .parseStep => 0x40
  | .parseRun => 0x41
  | .txFrame => 0x50
  | .txBody => 0x51
  | .txProbe => 0x52

/-- The rows of R69 that have an `op` value. -/
def Opcode.all : List Opcode :=
  [.reset, .cfgId, .crcClr, .crcUpd, .crcRd, .sumClr, .sumUpd, .sumRd, .sumChk, .rxAppend,
    .parseStep, .parseRun, .txFrame, .txBody, .txProbe]

/-- The operation an `op` byte names, or none for an unlisted value. -/
def Opcode.ofByte? (op : Byte) : Option Opcode := Opcode.all.find? (fun o => decide (o.code = op))

/-- An operation without operands. -/
def noOperand (i : Instr) : Bytes → Except CommandReject Instr
  | [] => .ok i
  | _ :: _ => .error .surplusOperand

/-- An operation with one byte operand. -/
def byteOperand (f : Byte → Instr) : Bytes → Except CommandReject Instr
  | [] => .error .missingOperand
  | [b] => .ok (f b)
  | _ :: _ :: _ => .error .surplusOperand

/-- An operation with a byte operand and then a byte sequence: the sequence is the rest of the packet. -/
def byteSeqOperands (f : Byte → Bytes → Instr) : Bytes → Except CommandReject Instr
  | [] => .error .missingOperand
  | b :: s => .ok (f b s)

/-- The operands of each operation (R69), read from the bytes after `op`. A byte sequence is always the
last operand and is the rest of the packet. DESIGN CHOICE (log entry 1). -/
def Opcode.operands : Opcode → Bytes → Except CommandReject Instr
  | .reset, args => noOperand .reset args
  | .cfgId, args => byteOperand .cfgId args
  | .crcClr, args => noOperand .crcClr args
  | .crcUpd, args => byteOperand .crcUpd args
  | .crcRd, args => noOperand .crcRd args
  | .sumClr, args => noOperand .sumClr args
  | .sumUpd, args => byteOperand .sumUpd args
  | .sumRd, args => noOperand .sumRd args
  | .sumChk, args => byteOperand .sumChk args
  | .rxAppend, args => .ok (.rxAppend args)
  | .parseStep, args => noOperand .parseStep args
  | .parseRun, args => noOperand .parseRun args
  | .txFrame, args => byteSeqOperands .txFrame args
  | .txBody, args => byteSeqOperands .txBody args
  | .txProbe, args => noOperand .txProbe args

/-- The command decoder, total on byte packets: `op`, then the operands. An unlisted `op` value is the
instruction `badOp`, whatever follows it (R69; log entry 14). -/
def decodeCommand : Bytes → Except CommandReject Instr
  | [] => .error .noOpByte
  | op :: args =>
    match Opcode.ofByte? op with
    | some o => o.operands args
    | none => .ok (.badOp op)

/-! ### Wire frames -/

/-- The header at the front of a byte sequence (R60): present when ten bytes are. -/
def Header.read : Bytes → Option Header
  | b0 :: b1 :: b2 :: b3 :: b4 :: b5 :: b6 :: b7 :: b8 :: b9 :: _ =>
    some { start := b0, length := b1, id := b2, sync := ⟨b3, b4, b5, b6, b7⟩, ver := b8, type := b9 }
  | _ => none

/-- `classify(t)` (43_frame_parser.md R117; 30_encoding.md R65). -/
def classify (P : Params) (t : Byte) : FrameClass :=
  if t = P.ftNetworkQuery then .netq
  else if t = P.ftSet ∨ t = P.ftGet ∨ t = P.ftNotify then .telemetry
  else .other

/-- The row of spec/opcode_table.json that a frame of type `t` falls under (R65, R117). -/
def frameRow (P : Params) (t : Byte) (w : FrameFields) : Instr :=
  if t = P.ftNetworkQuery then .frameNetq w
  else if t = P.ftSet then .frameSet w
  else if t = P.ftGet then .frameGet w
  else if t = P.ftNotify then .frameNotify w
  else .frameOther t w

/-- One whole valid frame, sentinel to checksum: `length` = L in byte 1, L ≥ 10, L + 1 bytes in all, byte L
the checksum of bytes 1 to L-1 (R60, R61, R63). The answer is its type byte and its other fields. -/
def readFrame (P : Params) (f : Bytes) : Except FrameReject (Byte × FrameFields) :=
  match Header.read f with
  | none => .error .shortHeader
  | some h =>
    if h.start ≠ P.startByte then .error .noSentinel
    else if h.length.toNat < headerSize then .error .badLength
    else
      match f[h.length.toNat]? with
      | none => .error .shortBody
      | some c =>
        if f.length ≠ h.length.toNat + 1 then .error .surplusBytes
        else if checksum (slice f 1 h.length.toNat) ≠ c then .error .badSum
        else .ok (h.type,
          { id := h.id, sync := h.sync, ver := h.ver, payload := slice f headerSize h.length.toNat })

/-- The layout decoder, total on byte sequences (row FRAME__layout__any_type). -/
def decodeLayout (P : Params) (f : Bytes) : Except FrameReject Instr :=
  match readFrame P f with
  | .ok (t, w) => .ok (.frameAny t w)
  | .error r => .error r

/-- The frame decoder, total on byte sequences: the layout, and then the row of its type byte (R65, R117). -/
def decodeFrame (P : Params) (f : Bytes) : Except FrameReject Instr :=
  match readFrame P f with
  | .ok (t, w) => .ok (frameRow P t w)
  | .error r => .error r

/-! ### The encoder -/

/-- A command packet: the `op` byte, then the operand bytes (R69). -/
def Opcode.packet (o : Opcode) (args : Bytes) : Bytes := o.code :: args

/-- The bytes of a wire frame before its trailing checksum (R60): sentinel, length, identifier, sync,
version, type, payload. The length is the one narrowing of R72(e). -/
def frameHead (P : Params) (t : Byte) (w : FrameFields) : Bytes :=
  [P.startByte, BitVec.ofNat 8 (w.payload.length + headerSize), w.id,
    w.sync.s3, w.sync.s4, w.sync.s5, w.sync.s6, w.sync.s7, w.ver, t] ++ w.payload

/-- A whole wire frame (R60): `frameHead`, then the checksum of everything after the sentinel (R63). -/
def encodeFrame (P : Params) (t : Byte) (w : FrameFields) : Bytes :=
  frameHead P t w ++ [checksum ((frameHead P t w).drop 1)]

/-- The bytes of an instruction: a command packet, a wire frame, or none for the two internal
micro-operations, which have no encoding (R101, R134). -/
def encode (P : Params) : Instr → Option Bytes
  | .reset => some (Opcode.reset.packet [])
  | .cfgId id => some (Opcode.cfgId.packet [id])
  | .crcClr => some (Opcode.crcClr.packet [])
  | .crcUpd b => some (Opcode.crcUpd.packet [b])
  | .crcRd => some (Opcode.crcRd.packet [])
  | .sumClr => some (Opcode.sumClr.packet [])
  | .sumUpd b => some (Opcode.sumUpd.packet [b])
  | .sumRd => some (Opcode.sumRd.packet [])
  | .sumChk t => some (Opcode.sumChk.packet [t])
  | .rxAppend chunk => some (Opcode.rxAppend.packet chunk)
  | .parseStep => some (Opcode.parseStep.packet [])
  | .parseRun => some (Opcode.parseRun.packet [])
  | .txFrame type payload => some (Opcode.txFrame.packet (type :: payload))
  | .txBody type body => some (Opcode.txBody.packet (type :: body))
  | .txProbe => some (Opcode.txProbe.packet [])
  | .rxFlush => none
  | .txNqReply => none
  | .badOp op => some [op]
  | .frameAny t w => some (encodeFrame P t w)
  | .frameNetq w => some (encodeFrame P P.ftNetworkQuery w)
  | .frameSet w => some (encodeFrame P P.ftSet w)
  | .frameGet w => some (encodeFrame P P.ftGet w)
  | .frameNotify w => some (encodeFrame P P.ftNotify w)
  | .frameOther t w => some (encodeFrame P t w)

/-! ### The table's words -/

/-- How many operand bytes an operation always has (R69); a byte sequence adds none. -/
def Opcode.fixedOperands : Opcode → Nat
  | .reset => 0
  | .cfgId => 1
  | .crcClr => 0
  | .crcUpd => 1
  | .crcRd => 0
  | .sumClr => 0
  | .sumUpd => 1
  | .sumRd => 0
  | .sumChk => 1
  | .rxAppend => 0
  | .parseStep => 0
  | .parseRun => 0
  | .txFrame => 1
  | .txBody => 1
  | .txProbe => 0

/-- The first `n` bytes of `w`, the least significant byte first. -/
def bytesOf : Nat → Nat → Bytes
  | 0, _ => []
  | n + 1, w => BitVec.ofNat 8 w :: bytesOf n (w / 256)

/-- The packet of a word of spec/opcode_table.json: its `nbits / 8` bytes and, where its operation has more
operand bytes, zeros for those; a byte sequence the table gives no bits is empty (log entry 27). -/
def tablePacket (nbits w : Nat) : Bytes :=
  match bytesOf (nbits / 8) w with
  | [] => []
  | op :: args =>
    match Opcode.ofByte? op with
    | some o => op :: (args ++ zeros (o.fixedOperands - args.length))
    | none => op :: args

/-- The instruction the command decoder reads from a word of spec/opcode_table.json. -/
def decodeTableWord (nbits w : Nat) : Option Instr :=
  match decodeCommand (tablePacket nbits w) with
  | .ok i => some i
  | .error _ => none

end Sys2Proof
end

