-- ==== Sys2Proof/WellFormed.lean ====
section
/-! DEFINITION. Which instructions are well-formed: an unlisted `op` for `badOp`, a payload that fits the
one-byte length for a wire frame (30_encoding.md R62), an unnamed type for FRAME.OTHER (R117). -/

namespace Sys2Proof

open Config (Params)

/-- The payload of a wire frame has 0 to 245 bytes (R62). -/
def FrameFields.wf (w : FrameFields) : Bool := decide (w.payload.length ≤ 245)

/-- Well-formedness. A command is well-formed with every operand value: a payload too long to frame is
refused by the operation itself (44_frame_builder.md R131). -/
def Instr.wf (P : Params) : Instr → Bool
  | .reset => true
  | .cfgId _ => true
  | .crcClr => true
  | .crcUpd _ => true
  | .crcRd => true
  | .sumClr => true
  | .sumUpd _ => true
  | .sumRd => true
  | .sumChk _ => true
  | .rxAppend _ => true
  | .parseStep => true
  | .parseRun => true
  | .txFrame _ _ => true
  | .txBody _ _ => true
  | .txProbe => true
  | .rxFlush => true
  | .txNqReply => true
  | .badOp op => (Opcode.ofByte? op).isNone
  | .frameAny _ w => w.wf
  | .frameNetq w => w.wf
  | .frameSet w => w.wf
  | .frameGet w => w.wf
  | .frameNotify w => w.wf
  | .frameOther t w => w.wf && decide (classify P t = .other)

end Sys2Proof
end

