-- ==== Sys2Proof/Machine/State.lean ====
section
/-! DEFINITION. The state of MFC (10_state.md) as plain data, the reasons a step can stop, and the state
after reset (R32). -/

namespace Sys2Proof.Machine

/-- The causes of MFC's own faults (60_exceptions.md R150). -/
inductive Cause where
  | badSum
  | badLength
  | overrun
  deriving DecidableEq, Repr

/-- The events of the output stream (10_state.md R26). -/
inductive Event where
  /-- `EV_FRAME`: an accepted frame, handed to the host. -/
  | frame (id : Byte) (sync : Sync) (ver : Byte) (type : Byte) (payload : Bytes) (cls : FrameClass)
  /-- `EV_TX`: one complete outgoing frame, sentinel first, checksum last. -/
  | tx (bytes : Bytes)
  /-- `EV_LOG`: a fault and the bytes it concerns. -/
  | log (cause : Cause) (bytes : Bytes)
  deriving DecidableEq, Repr

/-- The result codes of 10_state.md R29. `match` and `frame` are spelled `isMatch` and `gotFrame`. -/
inductive ResultCode where
  | done
  | byte (b : Byte)
  | refusedNoValue
  | isMatch
  | mismatch
  | ok
  | overrun
  | waitNoStart
  | waitHeader
  | waitBody
  | corruptLength
  | corruptSum
  | gotFrame
  | sent
  | refusedNoId
  | refusedTooLong
  | refusedBadOp
  deriving DecidableEq, Repr

/-- BUF as a memory (20_memory.md R40, R41): the byte at address i is the element at index i. Addresses are
0 .. len-1 without holes, so the list of bytes is itself the one canonical form: equal memories are equal
lists (log entry 15). -/
abbrev Memory := Bytes

/-- The memory invariant (R24, 42_rx_accumulator.md R103): at most `BUF_CEILING` bytes are held. -/
abbrev Memory.wf (m : Memory) : Prop := m.length ≤ Config.bufCeiling

/-- MFC's state. `NONE` of R20, R21 and R23 is the spec's own register value, hence `Option`. -/
structure State where
  /-- `buf`, the receive buffer (R24). -/
  buf : Memory
  /-- `crc`, the CRC generator's running value, or NONE (R20). -/
  crc : Option Byte
  /-- `sum`, the checksum unit's running value, or NONE (R21). -/
  sum : Option Byte
  /-- `proto_ver`, the version byte of the last valid received frame (R22). -/
  protoVer : Byte
  /-- `appliance_id`, the configured identifier, or NONE (R23). -/
  applianceId : Option Byte
  /-- `out`, the output event stream, oldest first (R26). -/
  out : List Event
  /-- The result codes returned to the host so far, oldest first: what 70_reset_and_hazards.md R183 says is
  observed. The model's own record: nothing in MFC reads it (R27; log entry 4). -/
  returned : List ResultCode
  /-- The commands the host has invoked and MFC has not taken, the next one first: the input of R27
  (log entry 3). -/
  pending : List Bytes
  deriving DecidableEq, Repr

/-- MFC never gets stuck (60_exceptions.md R160: "no fault, refusal or input makes the block unusable, stuck or
in need of RESET"), so there is no reason to fault and this type has no constructor. The faults of R150
are ordinary next states, see `Machine.raise`. Safe (log entry 30). -/
inductive Fault
  deriving DecidableEq, Repr

/-- Why a step has no meaning. -/
inductive Refusal where
  /-- Reserved for an instruction without a meaning; no arm of `exec` raises it. Safe. -/
  | notModelled (mnemonic : String)
  /-- Raised by `step` on a packet that is no command (no `op` byte, a missing or surplus operand byte),
  to which R69 gives no meaning. Safe: the model stops (log entry 2). -/
  | malformedCommand (why : CommandReject)
  deriving DecidableEq, Repr

/-- The state right after reset (R32), which R171 lets a model take as its launch state. The event stream, the
returned codes and the pending commands are empty because nothing has happened yet (log entries 3, 4, 10). -/
def State.reset : State where
  buf := []
  crc := none
  sum := none
  protoVer := Config.mfc.protoVerReset
  applianceId := none
  out := []
  returned := []
  pending := []

end Sys2Proof.Machine
end

