-- ==== Sys2Proof/Machine/Operands.lean ====
section
/-! DEFINITION. Operand forms: a byte of BUF, a register that may hold NONE, the fields of a frame in BUF,
the ROM. There is no addressing mode and no operand address (30_encoding.md R74). -/

namespace Sys2Proof.Machine

open Config (Params headerSize)

/-- `MemRead(BUF, i, 1)` (00_scope.md R15): the byte at address i, or nothing when i is not below len(buf)
(20_memory.md R44: every read is preceded by the test that makes it in range). -/
def Memory.read (m : Memory) (i : Nat) : Option Byte := m[i]?

/-- `MemRead(ROM, i, 1)` (R15): an address of the ROM is a byte, so every read is in range. -/
def romRead (P : Params) (i : Byte) : Byte := P.crcTable i

/-- The payload size of a frame whose length byte is `L` (30_encoding.md R61). -/
def payloadSize (L : Nat) : Nat := L - headerSize

/-- The candidate frame in BUF, sentinel to trailing byte: `buf[off .. off+L+1)` (43_frame_parser.md R113, R115). -/
def candidate (m : Memory) (off L : Nat) : Bytes := slice m off (off + L + 1)

/-- The bytes a frame's checksum covers: `buf[off+1 .. off+L)` (R115). -/
def covered (m : Memory) (off L : Nat) : Bytes := slice m (off + 1) (off + L)

/-- The fields of the frame at `off` with header `h` and length L (30_encoding.md R60): the payload is
`buf[off+10 .. off+L)`. -/
def frameFields (m : Memory) (off L : Nat) (h : Header) : FrameFields where
  id := h.id
  sync := h.sync
  ver := h.ver
  payload := slice m (off + headerSize) (off + L)

end Sys2Proof.Machine
end

