-- ==== Sys2Proof/Machine/Flags.lean ====
section
/-! DEFINITION. MFC has no flags register (10_state.md R29): where another machine sets a flag, MFC returns a
result code. Here are the comparisons of 30_encoding.md R72(c), (d) that select a code, and the codes' kinds. -/

namespace Sys2Proof.Machine

open Config (headerSize bufCeiling)

/-- `len(buf) > BUF_CEILING`, strictly (42_rx_accumulator.md R100). -/
def overCeiling (m : Memory) : Bool := decide (bufCeiling < m.length)

/-- `L < HEADER_SIZE`: a malformed length (43_frame_parser.md R113; log entry 18). -/
def malformedLength (L : Nat) : Bool := decide (L < headerSize)

/-- `P + HEADER_SIZE > 255`: a payload the length byte cannot express (44_frame_builder.md R131). -/
def tooLong (payload : Bytes) : Bool := decide (255 < payload.length + headerSize)

/-- The code of SUM.CHK (41_checksum.md R94). -/
def compareCode (a t : Byte) : ResultCode := if a = t then .isMatch else .mismatch

/-- The number of a fault cause (60_exceptions.md R150; log entry 29). -/
def Cause.code : Cause → Nat
  | .badSum => 1
  | .badLength => 2
  | .overrun => 3

/-- The code an operation returns after a fault (60_exceptions.md R158). -/
def Cause.result : Cause → ResultCode
  | .badSum => .corruptSum
  | .badLength => .corruptLength
  | .overrun => .overrun

/-- The `REFUSED_*` codes (00_scope.md R18(b); log entry 21). -/
def ResultCode.isRefusal : ResultCode → Bool
  | .refusedNoValue => true
  | .refusedNoId => true
  | .refusedTooLong => true
  | .refusedBadOp => true
  | _ => false

/-- The codes of a fault: `CORRUPT_*` and `OVERRUN` (00_scope.md R18(c)). -/
def ResultCode.isFault : ResultCode → Bool
  | .corruptLength => true
  | .corruptSum => true
  | .overrun => true
  | _ => false

/-- The codes of a waiting parser (43_frame_parser.md R123). -/
def ResultCode.isWait : ResultCode → Bool
  | .waitNoStart => true
  | .waitHeader => true
  | .waitBody => true
  | _ => false

end Sys2Proof.Machine
end

