-- ==== Sys2Proof/Machine/Ops.lean ====
section
/-! DEFINITION. The shared operations. Those with a parameter `P` are the units of an instance with the
parameters `P`; the machine is the instance `Config.mfc`. An operation that returns a code answers a pair:
the state after it and the code. -/

namespace Sys2Proof.Machine

open Config (Params headerSize)

/-! ### Registers, buffer, events -/

/-- `x[crc] <- v` (10_state.md R20). -/
def State.setCrc (s : State) (v : Option Byte) : State := { s with crc := v }

/-- `x[sum] <- v` (10_state.md R21). -/
def State.setSum (s : State) (v : Option Byte) : State := { s with sum := v }

/-- `x[proto_ver] <- v` (10_state.md R22). -/
def State.setProtoVer (s : State) (v : Byte) : State := { s with protoVer := v }

/-- `x[appliance_id] <- v` (10_state.md R23). -/
def State.setApplianceId (s : State) (v : Option Byte) : State := { s with applianceId := v }

/-- `buf <- buf ++ c` (20_memory.md R46(a)). -/
def State.append (s : State) (c : Bytes) : State := { s with buf := s.buf ++ c }

/-- `buf <- buf[k..)` (20_memory.md R46(b)). -/
def State.removeFront (s : State) (k : Nat) : State := { s with buf := s.buf.drop k }

/-- `buf <- []` (20_memory.md R46(c)). -/
def State.discard (s : State) : State := { s with buf := [] }

/-- `emit EV(args)` (00_scope.md R15): the event goes to the end of the stream. -/
def State.emit (s : State) (e : Event) : State := { s with out := s.out ++ [e] }

/-- A result code goes back to the host (10_state.md R27). -/
def State.ret (s : State) (r : ResultCode) : State := { s with returned := s.returned ++ [r] }

/-- The end of a host operation: its code is returned. -/
def finish (p : State × ResultCode) : Host.Outcome State Fault Refusal := .next (p.1.ret p.2)

/-- RX.FLUSH, "discard the entire buffer" (42_rx_accumulator.md R101). -/
def flush (s : State) : State := s.discard

/-- Fault entry, the same for all three causes (60_exceptions.md R158): the log event, then RX.FLUSH, and the
operation ends with the cause's code (what is logged: log entries 20, 24). Nothing is saved, nothing else changes, and there is no return from a
fault (R159). -/
def raise (cause : Cause) (bytes : Bytes) (s : State) : State × ResultCode :=
  (flush (s.emit (.log cause bytes)), cause.result)

/-! ### The CRC generator (40_crc8.md) -/

/-- One table step: `CRC_TABLE[c xor b]` (R80, R82). -/
def crcNext (P : Params) (c b : Byte) : Byte := romRead P (c ^^^ b)

/-- The loop of R80 started at `c`. -/
def crc8From (P : Params) (c : Byte) (s : Bytes) : Byte := s.foldl (crcNext P) c

/-- `crc8(s)` (R80). -/
def crc8 (P : Params) (s : Bytes) : Byte := crc8From P Config.crcInit s

/-- CRC.CLR (R81). -/
def crcClear (s : State) : State × ResultCode := (s.setCrc (some Config.crcInit), .done)

/-- CRC.UPD (R82). -/
def crcUpdate (P : Params) (b : Byte) (s : State) : State × ResultCode :=
  match s.crc with
  | none => (s, .refusedNoValue)
  | some c => (s.setCrc (some (crcNext P c b)), .done)

/-- CRC.RD (R83). -/
def crcRead (s : State) : State × ResultCode :=
  match s.crc with
  | none => (s, .refusedNoValue)
  | some c => (s, .byte c)

/-! ### The checksum unit (41_checksum.md) -/

/-- SUM.CLR (R91). -/
def sumClear (s : State) : State × ResultCode := (s.setSum (some Config.sumInit), .done)

/-- SUM.UPD (R92): subtraction modulo 256. -/
def sumUpdate (b : Byte) (s : State) : State × ResultCode :=
  match s.sum with
  | none => (s, .refusedNoValue)
  | some a => (s.setSum (some (a - b)), .done)

/-- SUM.RD (R93). -/
def sumRead (s : State) : State × ResultCode :=
  match s.sum with
  | none => (s, .refusedNoValue)
  | some a => (s, .byte a)

/-- SUM.CHK (R94). -/
def sumCheck (t : Byte) (s : State) : State × ResultCode :=
  match s.sum with
  | none => (s, .refusedNoValue)
  | some a => (s, compareCode a t)

/-! ### The receive accumulator (42_rx_accumulator.md) -/

/-- RX.APPEND (R100): append the whole chunk, then one test of the ceiling; it never parses (log entry 26). -/
def rxAppend (chunk : Bytes) (s : State) : State × ResultCode :=
  let s' := s.append chunk
  if overCeiling s'.buf then raise .overrun s'.buf s' else (s', .ok)

/-! ### The frame builder (44_frame_builder.md) -/

/-- The frame TX.FRAME emits (R131): the identifier, five zero sync bytes, the version, the type, the payload. -/
def buildFrame (P : Params) (id ver type : Byte) (payload : Bytes) : Bytes :=
  encodeFrame P type { id := id, sync := ⟨0x00, 0x00, 0x00, 0x00, 0x00⟩, ver := ver, payload := payload }

/-- TX.FRAME (R131). -/
def txFrame (P : Params) (type : Byte) (payload : Bytes) (s : State) : State × ResultCode :=
  match s.applianceId with
  | none => (s, .refusedNoId)
  | some id =>
    if tooLong payload then (s, .refusedTooLong)
    else (s.emit (.tx (buildFrame P id s.protoVer type payload)), .sent)

/-- A body followed by its CRC byte (30_encoding.md R66), by the function, not the register (R71; log entries
17, 22). -/
def withCrc (P : Params) (body : Bytes) : Bytes := body ++ [crc8 P body]

/-- TX.BODY (R132). -/
def txBody (P : Params) (type : Byte) (body : Bytes) (s : State) : State × ResultCode :=
  txFrame P type (withCrc P body) s

/-- TX.PROBE (R133). -/
def txProbe (P : Params) (s : State) : State × ResultCode := txBody P P.ftGet Config.probeBody s

/-- TX.NQREPLY (R134; its type byte: log entry 19). -/
def nqReply (P : Params) (s : State) : State × ResultCode :=
  txBody P P.ftNetworkQuery P.nqReplyBody.toList s

/-! ### Acceptance of a frame (43_frame_parser.md R116) -/

/-- The event of an accepted frame (R110, 10_state.md R26). -/
def frameEvent (cls : FrameClass) (type : Byte) (w : FrameFields) : Event :=
  .frame w.id w.sync w.ver type w.payload cls

/-- Steps (a), (b), (c) of R116: latch the version, emit `EV_FRAME`, answer a network query; a refused answer
is swallowed (R118). Step (d), the removal from BUF, is `parseStep`'s. -/
def acceptFrame (P : Params) (cls : FrameClass) (type : Byte) (w : FrameFields) (s : State) : State :=
  let s' := (s.setProtoVer w.ver).emit (frameEvent cls type w)
  match cls with
  | .netq => (nqReply P s').1
  | .telemetry => s'
  | .other => s'

/-! ### The parser (43_frame_parser.md) -/

/-- What the parser finds at the front of BUF. -/
inductive Scan where
  /-- Not enough bytes: the code says which test failed. -/
  | wait (code : ResultCode)
  /-- A corrupt candidate: the cause, and the slice to log. -/
  | corrupt (cause : Cause) (bytes : Bytes)
  /-- A valid frame: its type, its fields, and how many bytes of BUF end with it. -/
  | valid (type : Byte) (w : FrameFields) (size : Nat)
  deriving DecidableEq, Repr

/-- The tests of PARSE.STEP (R110), one by one in the order of 60_exceptions.md R157; they look at BUF only.
`Header.read` finds ten bytes exactly when `n - off ≥ 10` (R112), and the byte at `off + L` exists exactly when
`n ≥ off + L + 1` (R114). -/
def scan (P : Params) (m : Memory) : Scan :=
  match find m P.startByte with
  | none => .wait .waitNoStart
  | some off =>
    match Header.read (m.drop off) with
    | none => .wait .waitHeader
    | some h =>
      if malformedLength h.length.toNat then .corrupt .badLength (candidate m off h.length.toNat)
      else
        match m.read (off + h.length.toNat) with
        | none => .wait .waitBody
        | some c =>
          if checksum (covered m off h.length.toNat) ≠ c then .corrupt .badSum (candidate m off h.length.toNat)
          else .valid h.type (frameFields m off h.length.toNat h) (off + h.length.toNat + 1)

/-- PARSE.STEP (R110): wait and change nothing, or enter the fault, or accept the frame (R116(a) to (c)) and then
remove it and what precedes it from BUF (R116(d)). -/
def parseStep (P : Params) (s : State) : State × ResultCode :=
  match scan P s.buf with
  | .wait code => (s, code)
  | .corrupt cause bytes => raise cause bytes s
  | .valid type w size => ((acceptFrame P (classify P type) type w s).removeFront size, .gotFrame)

/-- The loop of PARSE.RUN (R119), with fuel: `parseStep` again while it answers FRAME. -/
def parseLoop (P : Params) : Nat → State → State × ResultCode
  | 0, s => parseStep P s
  | n + 1, s =>
    match parseStep P s with
    | (s', .gotFrame) => parseLoop P n s'
    | r => r

/-- PARSE.RUN (R119). Each accepted frame removes at least one byte, so the length of `buf` is fuel enough
and the loop ends by itself (R120; log entry 16). -/
def parseRun (P : Params) (s : State) : State × ResultCode := parseLoop P s.buf.length s

/-! ### Reset and configuration -/

/-- RESET (70_reset_and_hazards.md R170): the events already emitted stay. -/
def resetOp (P : Params) (s : State) : State × ResultCode :=
  (((((flush s).setCrc none).setSum none).setProtoVer P.protoVerReset).setApplianceId none, .done)

/-- CFG.ID (44_frame_builder.md R130). -/
def cfgId (id : Byte) (s : State) : State × ResultCode := (s.setApplianceId (some id), .done)

end Sys2Proof.Machine
end

