-- ==== Sys2Proof/Machine/Build.lean ====
section
/-! DEFINITION. The frame builder (44_frame_builder.md). -/

namespace Sys2Proof.Machine

/-- TX.FRAME type payload (R131). -/
def execTxFrame (type : Byte) (payload : Bytes) (s : State) : Host.Outcome State Fault Refusal :=
  finish (txFrame Config.mfc type payload s)

/-- TX.BODY type body (R132). -/
def execTxBody (type : Byte) (body : Bytes) (s : State) : Host.Outcome State Fault Refusal :=
  finish (txBody Config.mfc type body s)

/-- TX.PROBE (R133). -/
def execTxProbe (s : State) : Host.Outcome State Fault Refusal := finish (txProbe Config.mfc s)

/-- TX.NQREPLY, internal (R134): its code goes to the parser that invoked it, which swallows it (R118), and
not to the host (log entry 13). -/
def execTxNqReply (s : State) : Host.Outcome State Fault Refusal := .next (nqReply Config.mfc s).1

end Sys2Proof.Machine
end

