-- ==== Sys2Proof/Machine/Crc.lean ====
section
/-! DEFINITION. The CRC generator's operations (40_crc8.md). -/

namespace Sys2Proof.Machine

/-- CRC.CLR (R81). -/
def execCrcClr (s : State) : Host.Outcome State Fault Refusal := finish (crcClear s)

/-- CRC.UPD b (R82). -/
def execCrcUpd (b : Byte) (s : State) : Host.Outcome State Fault Refusal := finish (crcUpdate Config.mfc b s)

/-- CRC.RD (R83). -/
def execCrcRd (s : State) : Host.Outcome State Fault Refusal := finish (crcRead s)

end Sys2Proof.Machine
end

