-- ==== Sys2Proof/Machine/Parse.lean ====
section
/-! DEFINITION. The frame parser (43_frame_parser.md). -/

namespace Sys2Proof.Machine

/-- PARSE.STEP (R110). -/
def execParseStep (s : State) : Host.Outcome State Fault Refusal := finish (parseStep Config.mfc s)

/-- PARSE.RUN (R119). -/
def execParseRun (s : State) : Host.Outcome State Fault Refusal := finish (parseRun Config.mfc s)

end Sys2Proof.Machine
end

