-- ==== Sys2Proof/Machine/Rx.lean ====
section
/-! DEFINITION. The receive accumulator (42_rx_accumulator.md). -/

namespace Sys2Proof.Machine

/-- RX.APPEND chunk (R100). -/
def execRxAppend (chunk : Bytes) (s : State) : Host.Outcome State Fault Refusal := finish (rxAppend chunk s)

/-- RX.FLUSH, internal (R101): no code goes to the host (log entry 13). -/
def execRxFlush (s : State) : Host.Outcome State Fault Refusal := .next (flush s)

end Sys2Proof.Machine
end

