-- ==== Sys2Proof/Machine/Sum.lean ====
section
/-! DEFINITION. The checksum unit's operations (41_checksum.md). -/

namespace Sys2Proof.Machine

/-- SUM.CLR (R91). -/
def execSumClr (s : State) : Host.Outcome State Fault Refusal := finish (sumClear s)

/-- SUM.UPD b (R92). -/
def execSumUpd (b : Byte) (s : State) : Host.Outcome State Fault Refusal := finish (sumUpdate b s)

/-- SUM.RD (R93). -/
def execSumRd (s : State) : Host.Outcome State Fault Refusal := finish (sumRead s)

/-- SUM.CHK t (R94). -/
def execSumChk (t : Byte) (s : State) : Host.Outcome State Fault Refusal := finish (sumCheck t s)

end Sys2Proof.Machine
end

