-- ==== Sys2Proof/Machine/System.lean ====
section
/-! DEFINITION. RESET, CFG.ID and the unlisted `op` values. -/

namespace Sys2Proof.Machine

/-- RESET (70_reset_and_hazards.md R170). -/
def execReset (s : State) : Host.Outcome State Fault Refusal := finish (resetOp Config.mfc s)

/-- CFG.ID id (44_frame_builder.md R130). -/
def execCfgId (id : Byte) (s : State) : Host.Outcome State Fault Refusal := finish (cfgId id s)

/-- An unlisted `op` value (30_encoding.md R69): `REFUSED_BAD_OP`, no state change, no event. -/
def execBadOp (_op : Byte) (s : State) : Host.Outcome State Fault Refusal := finish (s, .refusedBadOp)

end Sys2Proof.Machine
end

