-- ==== Sys2Proof/Machine/Wire.lean ====
section
/-! DEFINITION. The wire frames (30_encoding.md R60, R65; 43_frame_parser.md R116 to R118). A frame in BUF is
what PARSE.STEP fetches and decodes; its meaning is its acceptance, steps (a) to (c) of R116. PARSE.STEP adds
step (d), the removal of the frame from BUF, as a fetch adds moving past the instruction (log entry 11). -/

namespace Sys2Proof.Machine

/-- A frame of any type (row FRAME__layout__any_type): its class is that of its type byte (R117). -/
def execFrameAny (type : Byte) (w : FrameFields) (s : State) : Host.Outcome State Fault Refusal :=
  .next (acceptFrame Config.mfc (classify Config.mfc type) type w s)

/-- FRAME.NETQ: `EV_FRAME`, then the automatic reply (R118). -/
def execFrameNetq (w : FrameFields) (s : State) : Host.Outcome State Fault Refusal :=
  .next (acceptFrame Config.mfc .netq Config.mfc.ftNetworkQuery w s)

/-- FRAME.SET: class TELEMETRY. -/
def execFrameSet (w : FrameFields) (s : State) : Host.Outcome State Fault Refusal :=
  .next (acceptFrame Config.mfc .telemetry Config.mfc.ftSet w s)

/-- FRAME.GET: class TELEMETRY. -/
def execFrameGet (w : FrameFields) (s : State) : Host.Outcome State Fault Refusal :=
  .next (acceptFrame Config.mfc .telemetry Config.mfc.ftGet w s)

/-- FRAME.NOTIFY: class TELEMETRY. -/
def execFrameNotify (w : FrameFields) (s : State) : Host.Outcome State Fault Refusal :=
  .next (acceptFrame Config.mfc .telemetry Config.mfc.ftNotify w s)

/-- FRAME.OTHER: class OTHER, `EV_FRAME` only (R117). -/
def execFrameOther (type : Byte) (w : FrameFields) (s : State) : Host.Outcome State Fault Refusal :=
  .next (acceptFrame Config.mfc .other type w s)

end Sys2Proof.Machine
end

