-- ==== Sys2Proof/Machine/Dispatch.lean ====
section
/-! DEFINITION. One arm per instruction. -/

namespace Sys2Proof.Machine

def exec (i : Instr) (s : State) : Host.Outcome State Fault Refusal :=
  match i with
  | .reset => Sys2Proof.Machine.execReset s
  | .cfgId id => Sys2Proof.Machine.execCfgId id s
  | .crcClr => Sys2Proof.Machine.execCrcClr s
  | .crcUpd b => Sys2Proof.Machine.execCrcUpd b s
  | .crcRd => Sys2Proof.Machine.execCrcRd s
  | .sumClr => Sys2Proof.Machine.execSumClr s
  | .sumUpd b => Sys2Proof.Machine.execSumUpd b s
  | .sumRd => Sys2Proof.Machine.execSumRd s
  | .sumChk t => Sys2Proof.Machine.execSumChk t s
  | .rxAppend chunk => Sys2Proof.Machine.execRxAppend chunk s
  | .parseStep => Sys2Proof.Machine.execParseStep s
  | .parseRun => Sys2Proof.Machine.execParseRun s
  | .txFrame type payload => Sys2Proof.Machine.execTxFrame type payload s
  | .txBody type body => Sys2Proof.Machine.execTxBody type body s
  | .txProbe => Sys2Proof.Machine.execTxProbe s
  | .rxFlush => Sys2Proof.Machine.execRxFlush s
  | .txNqReply => Sys2Proof.Machine.execTxNqReply s
  | .badOp op => Sys2Proof.Machine.execBadOp op s
  | .frameAny type w => Sys2Proof.Machine.execFrameAny type w s
  | .frameNetq w => Sys2Proof.Machine.execFrameNetq w s
  | .frameSet w => Sys2Proof.Machine.execFrameSet w s
  | .frameGet w => Sys2Proof.Machine.execFrameGet w s
  | .frameNotify w => Sys2Proof.Machine.execFrameNotify w s
  | .frameOther type w => Sys2Proof.Machine.execFrameOther type w s

end Sys2Proof.Machine
end

