-- ==== Sys2Proof/Machine/Step.lean ====
section
/-! DEFINITION. One step of the machine: MFC takes the next command the host has invoked. -/

namespace Sys2Proof.Machine

/-- One step. MFC is passive (00_scope.md R17): with no command pending it is idle and keeps all its state
(60_exceptions.md R165). Otherwise the next command is taken, decoded and run as one indivisible operation
(R4); a packet that is no command is refused by name (log entry 2). -/
def step (s : State) : Host.Outcome State Fault Refusal :=
  match s.pending with
  | [] => .next s
  | packet :: rest =>
    match decodeCommand packet with
    | .ok i => exec i { s with pending := rest }
    | .error r => .refused (.malformedCommand r)

/-- The state with a word of spec/opcode_table.json as the host's next command (log entry 3). -/
def State.withFetchWord (s : State) (nbits w : Nat) : State :=
  { s with pending := tablePacket nbits w :: s.pending }

end Sys2Proof.Machine
end

