-- ==== Sys2Proof/Safety.lean ====
section
/-! DEFINITION. Runs, what is observed of them, and what a safe state is. -/

namespace Sys2Proof.Machine

open Config (Params mfc)

/-- A run of operations, one after another, as the host invokes them (70_reset_and_hazards.md R183). -/
def execAll : List Instr → State → Host.Outcome State Fault Refusal
  | [], s => .next s
  | i :: is, s =>
    match exec i s with
    | .next s' => execAll is s'
    | .fault r => .fault r
    | .refused r => .refused r

/-- What is observed of a run (R183): the result codes returned, and the event stream. -/
structure Observation where
  codes : List ResultCode
  events : List Event
  deriving DecidableEq, Repr

/-- The observation at a state. -/
def State.observe (s : State) : Observation where
  codes := s.returned
  events := s.out

/-- `off` is the lowest address of BUF that holds the sentinel (43_frame_parser.md R111). -/
def FirstSentinel (m : Memory) (off : Nat) : Prop :=
  m.read off = some mfc.startByte ∧ ∀ j, j < off → m.read j ≠ some mfc.startByte

/-- No byte of the sequence is the sentinel. -/
def NoSentinel (m : Bytes) : Prop := ∀ b ∈ m, b ≠ mfc.startByte

/-- An event as MFC can emit it: a received payload fits its length byte and the class is that of the type
(30_encoding.md R62, R65); a sent frame is one whole valid frame (R60); the logged bytes have the length the
cause allows (60_exceptions.md R150). -/
def Event.wf (P : Params) : Event → Prop
  | .frame _ _ _ type payload cls => payload.length ≤ 245 ∧ cls = classify P type
  | .tx bytes => ∃ t w, readFrame P bytes = .ok (t, w)
  | .log .badLength bytes => 1 ≤ bytes.length ∧ bytes.length ≤ 10
  | .log .badSum bytes => 11 ≤ bytes.length ∧ bytes.length ≤ 256
  | .log .overrun bytes => Config.bufCeiling < bytes.length

/-- The invariant of MFC: the buffer is within its ceiling (10_state.md R24) and every event emitted so far is
well-formed. -/
def Inv (s : State) : Prop := s.buf.wf ∧ ∀ e ∈ s.out, e.wf mfc

/-! ### What the statements are written with -/

/-- The bytes of an outgoing frame as 44_frame_builder.md R131 lists them: the sentinel, then the length, the
identifier, five zeros, the version, the type, the payload, then the checksum of everything after the sentinel. -/
def outgoing (id ver type : Byte) (payload : Bytes) : Bytes :=
  let rest := [BitVec.ofNat 8 (payload.length + 10), id, 0x00, 0x00, 0x00, 0x00, 0x00, ver, type] ++ payload
  mfc.startByte :: rest ++ [checksum rest]

/-- The events of an automatic reply (R134): one `EV_TX` when an identifier is configured, none otherwise. -/
def replyEvents (id : Option Byte) (ver : Byte) : List Event :=
  match id with
  | none => []
  | some a => [.tx (outgoing a ver mfc.ftNetworkQuery
      (mfc.nqReplyBody.toList ++ [crc8 mfc mfc.nqReplyBody.toList]))]

/-- The events of accepting a frame (43_frame_parser.md R116 to R118): `EV_FRAME`, then the reply when the
class is NETQ. -/
def acceptEvents (id : Option Byte) (type : Byte) (w : FrameFields) (cls : FrameClass) : List Event :=
  .frame w.id w.sync w.ver type w.payload cls :: (if cls = .netq then replyEvents id w.ver else [])

/-- The version of the last accepted frame among the events, or `v` when there is none (10_state.md R22). -/
def lastVersion (v : Byte) (es : List Event) : Byte :=
  es.foldl (fun v e => match e with
    | .frame _ _ ver _ _ _ => ver
    | .tx _ => v
    | .log _ _ => v) v

/-- An `EV_FRAME`. -/
def Event.isFrame : Event → Bool
  | .frame _ _ _ _ _ _ => true
  | .tx _ => false
  | .log _ _ => false

/-- An `EV_LOG`. -/
def Event.isLog : Event → Bool
  | .frame _ _ _ _ _ _ => false
  | .tx _ => false
  | .log _ _ => true

/-- An `EV_TX`. -/
def Event.isTx : Event → Bool
  | .frame _ _ _ _ _ _ => false
  | .tx _ => true
  | .log _ _ => false

end Sys2Proof.Machine

namespace Sys2Proof

/-- The bytes a list of operations gives to the CRC generator. -/
def crcBytes (is : List Instr) : Bytes :=
  is.flatMap (fun i => match i with
    | .crcUpd b => [b]
    | _ => [])

/-- The bytes a list of operations gives to the checksum unit. -/
def sumBytes (is : List Instr) : Bytes :=
  is.flatMap (fun i => match i with
    | .sumUpd b => [b]
    | _ => [])

/-- The stream a list of operations delivers to the receive accumulator. -/
def rxBytes (is : List Instr) : Bytes :=
  is.flatMap (fun i => match i with
    | .rxAppend c => c
    | _ => [])

/-- The operations a receive schedule is made of (70_reset_and_hazards.md R176). -/
def Instr.isReceive (i : Instr) : Bool :=
  match i with
  | .rxAppend _ => true
  | .parseStep => true
  | .parseRun => true
  | _ => false

/-- The operations of the CRC generator and the checksum unit (30_encoding.md R69). -/
def Instr.isUnit (i : Instr) : Bool :=
  match i with
  | .crcClr => true
  | .crcUpd _ => true
  | .crcRd => true
  | .sumClr => true
  | .sumUpd _ => true
  | .sumRd => true
  | .sumChk _ => true
  | _ => false

end Sys2Proof
end

