-- ==== Sys2Proof/Certificates/Slice0/Obligations.lean ====
section
/-! DEFINITION. The statements for the provers. In a docstring, "the spec's decision D<n>" says that the rule is
one the spec marks as its own choice (spec/92_eei_decisions.md), and "log entry <n>" that the clause rests on a
choice of the model (notes/assumptions/<n>.md). -/

open Sys2Proof Sys2Proof.Machine
open Sys2Proof.Config (mfc)

/-! ### Commands and steps -/

/-- 30_encoding.md section 3 (the spec's decision D18; packets: log entry 1): the `op` byte of each operation,
with its operands, decodes to that operation, and every unlisted `op` value to the bad-op instruction. -/
def Obligations.OpBytesDecode : Prop :=
  decodeCommand [0x00] = .ok .reset ∧ (∀ id, decodeCommand [0x01, id] = .ok (.cfgId id)) ∧
  decodeCommand [0x10] = .ok .crcClr ∧ (∀ b, decodeCommand [0x11, b] = .ok (.crcUpd b)) ∧
  decodeCommand [0x12] = .ok .crcRd ∧ decodeCommand [0x20] = .ok .sumClr ∧
  (∀ b, decodeCommand [0x21, b] = .ok (.sumUpd b)) ∧ decodeCommand [0x22] = .ok .sumRd ∧
  (∀ t, decodeCommand [0x23, t] = .ok (.sumChk t)) ∧
  (∀ c, decodeCommand (0x30 :: c) = .ok (.rxAppend c)) ∧
  decodeCommand [0x40] = .ok .parseStep ∧ decodeCommand [0x41] = .ok .parseRun ∧
  (∀ t p, decodeCommand (0x50 :: t :: p) = .ok (.txFrame t p)) ∧
  (∀ t b, decodeCommand (0x51 :: t :: b) = .ok (.txBody t b)) ∧
  decodeCommand [0x52] = .ok .txProbe ∧
  (∀ (op : Byte) (args : Bytes),
    op ∉ ([0x00, 0x01, 0x10, 0x11, 0x12, 0x20, 0x21, 0x22, 0x23, 0x30, 0x40, 0x41, 0x50, 0x51, 0x52] : Bytes) →
    decodeCommand (op :: args) = .ok (.badOp op))

/-- 00_scope.md R4, R17 (the pending list: log entry 3; malformed packets: log entry 2): a step with a command
pending runs the decoded instruction, as one operation, on the state with that command taken; with nothing
pending the block is idle; a packet that is no command is refused by name. -/
def Obligations.StepRunsDecodedCommand : Prop :=
  (∀ (s : State) (packet : Bytes) (rest : List Bytes) (i : Instr), s.pending = packet :: rest →
    decodeCommand packet = .ok i → step s = exec i { s with pending := rest }) ∧
  (∀ s : State, s.pending = [] → step s = .next s) ∧
  (∀ (s : State) (packet : Bytes) (rest : List Bytes) (r : CommandReject), s.pending = packet :: rest →
    decodeCommand packet = .error r → step s = .refused (.malformedCommand r))

/-- 60_exceptions.md R160: from every state every operation is defined and ends in a next state, and so does
every sequence of operations. -/
def Obligations.NoOperationGetsStuck : Prop :=
  (∀ (i : Instr) (s : State), ∃ t, exec i s = .next t) ∧
  (∀ (is : List Instr) (s : State), ∃ t, execAll is s = .next t)

/-- 30_encoding.md section 3 (the spec's decision D18; packets: log entry 1): every well-formed command
instruction, with every operand value, has an encoding that decodes to it. -/
def Obligations.CommandEncodeDecode : Prop :=
  ∀ i : Instr, i.wf mfc = true → i.form = .op →
    ∃ b, encode mfc i = some b ∧ decodeCommand b = .ok i

/-- 30_encoding.md section 3 (the spec's decision D18; packets: log entry 1): a packet that decodes to a listed
operation is that operation's encoding, so no two packets mean the same operation. -/
def Obligations.CommandBytesAreCanonical : Prop :=
  ∀ (b : Bytes) (i : Instr), decodeCommand b = .ok i →
    i.wf mfc = true ∧ i.form = .op ∧ ((∀ op, i ≠ .badOp op) → encode mfc i = some b)

/-- 30_encoding.md section 1 (the spec's decisions D3, D11, D13): every well-formed wire frame, of any type and any payload of
0 to 245 bytes, has an encoding that decodes to it: the layout row through the layout decoder, the five class
rows through the frame decoder. -/
def Obligations.WireEncodeDecode : Prop :=
  (∀ (t : Byte) (w : FrameFields), w.wf = true → decodeLayout mfc (encodeFrame mfc t w) = .ok (.frameAny t w)) ∧
  (∀ i : Instr, i.wf mfc = true → i.form = .wire → (∀ t w, i ≠ .frameAny t w) →
    ∃ f, encode mfc i = some f ∧ decodeFrame mfc f = .ok i)

/-- 30_encoding.md section 1, rules R60 to R63 (the spec's decision D3): a byte sequence that decodes as a frame
is the encoding of what it decodes to, has L + 1 bytes, 11 to 256 of them, for L its second byte, and its payload
has L - 10 bytes. -/
def Obligations.WireBytesAreCanonical : Prop :=
  ∀ (f : Bytes) (t : Byte) (w : FrameFields), decodeLayout mfc f = .ok (.frameAny t w) →
    f = encodeFrame mfc t w ∧ 11 ≤ f.length ∧ f.length ≤ 256 ∧
    ∃ L : Byte, f[1]? = some L ∧ f.length = L.toNat + 1 ∧ w.payload.length + 10 = L.toNat

/-! ### Reset and configuration -/

/-- 70_reset_and_hazards.md section 1 (the spec's decisions D14, D15): RESET from any state, the whole state after
it; events already emitted stay (and, in the model, returned codes and pending commands: log entry 25). -/
def Obligations.ResetOperation : Prop :=
  ∀ s : State, exec .reset s = .next
    { buf := [], crc := none, sum := none, protoVer := mfc.protoVerReset, applianceId := none,
      out := s.out, returned := s.returned ++ [.done], pending := s.pending }

/-- 10_state.md section 6 (the spec's decisions D14, D15): the values right after reset; the three lists are empty
at power-on (log entries 3, 4, 10). -/
def Obligations.ResetStateValues : Prop :=
  State.reset.buf = [] ∧ State.reset.crc = none ∧ State.reset.sum = none ∧
  State.reset.protoVer = mfc.protoVerReset ∧ State.reset.applianceId = none ∧
  State.reset.out = [] ∧ State.reset.returned = [] ∧ State.reset.pending = []

/-- 44_frame_builder.md section 2 (the spec's decision D15): CFG.ID loads every byte, from every state, again and
again, and changes nothing else. -/
def Obligations.ConfigureIdentifier : Prop :=
  (∀ (id : Byte) (s : State), exec (.cfgId id) s = .next
    { s with applianceId := some id, returned := s.returned ++ [.done] })

/-- 30_encoding.md section 3 (the spec's decision D18): an unlisted `op` value is refused with REFUSED_BAD_OP: no
state change, no event. -/
def Obligations.BadOpRefused : Prop :=
  ∀ (op : Byte) (s : State), exec (.badOp op) s = .next { s with returned := s.returned ++ [.refusedBadOp] }

/-! ### The CRC generator -/

/-- 40_crc8.md section 3 (the spec's decisions D9, D16): CRC.CLR from every state; CRC.UPD and CRC.RD when the register holds
a value: the new value is `CRC_TABLE[x[crc] xor b]`, the read returns the value and changes nothing else. -/
def Obligations.CrcOperations : Prop :=
  (∀ s : State, exec .crcClr s = .next { s with crc := some 0x00, returned := s.returned ++ [.done] }) ∧
  (∀ (s : State) (c b : Byte), s.crc = some c → exec (.crcUpd b) s = .next
    { s with crc := some (mfc.crcTable (c ^^^ b)), returned := s.returned ++ [.done] }) ∧
  (∀ (s : State) (c : Byte), s.crc = some c → exec .crcRd s = .next
    { s with returned := s.returned ++ [.byte c] })

/-- 40_crc8.md section 3 (the spec's decision D16): CRC.UPD and CRC.RD on a register that holds NONE are refused and change
nothing. -/
def Obligations.CrcRefusesNone : Prop :=
  ∀ (s : State) (b : Byte), s.crc = none →
    exec (.crcUpd b) s = .next { s with returned := s.returned ++ [.refusedNoValue] } ∧
    exec .crcRd s = .next { s with returned := s.returned ++ [.refusedNoValue] }

/-- 40_crc8.md section 2, laws R84(a) to (c), for every table (R80 is the spec's decision D9): the empty sequence, one byte, and prefix
composition. -/
def Obligations.Crc8Laws : Prop :=
  crc8 mfc [] = 0x00 ∧ (∀ b, crc8 mfc [b] = mfc.crcTable b) ∧
  (∀ s t, crc8 mfc (s ++ t) = t.foldl (fun c b => mfc.crcTable (c ^^^ b)) (crc8 mfc s))

/-- 40_crc8.md R85 (resting on the spec's decisions D9, D16): after CRC.CLR, whatever operations of the other units are interleaved (any
but RESET and CRC.CLR), CRC.RD returns `crc8` of the bytes given to CRC.UPD, in their order. -/
def Obligations.CrcStreamingEqualsFunction : Prop :=
  ∀ (ops : List Instr) (s : State), (∀ i ∈ ops, i ≠ .reset ∧ i ≠ .crcClr) →
    ∃ t, execAll (.crcClr :: (ops ++ [.crcRd])) s = .next t ∧
      t.returned.getLast? = some (.byte (crc8 mfc (crcBytes ops))) ∧ t.crc = some (crc8 mfc (crcBytes ops))

/-! ### The checksum unit -/

/-- 41_checksum.md section 3 (the spec's decisions D10, D16): SUM.CLR from every state; SUM.UPD, SUM.RD and SUM.CHK when the register
holds a value: subtraction modulo 256, read, compare. -/
def Obligations.SumOperations : Prop :=
  (∀ s : State, exec .sumClr s = .next { s with sum := some 0x00, returned := s.returned ++ [.done] }) ∧
  (∀ (s : State) (a b : Byte), s.sum = some a → exec (.sumUpd b) s = .next
    { s with sum := some (BitVec.ofInt 8 ((a.toNat : Int) - (b.toNat : Int))),
             returned := s.returned ++ [.done] }) ∧
  (∀ (s : State) (a : Byte), s.sum = some a → exec .sumRd s = .next
    { s with returned := s.returned ++ [.byte a] }) ∧
  (∀ (s : State) (a : Byte), s.sum = some a → exec (.sumChk a) s = .next
    { s with returned := s.returned ++ [.isMatch] }) ∧
  (∀ (s : State) (a t : Byte), s.sum = some a → t ≠ a → exec (.sumChk t) s = .next
    { s with returned := s.returned ++ [.mismatch] })

/-- 41_checksum.md section 3 (the spec's decision D16): SUM.UPD, SUM.RD and SUM.CHK on a register that holds NONE are refused and
change nothing. -/
def Obligations.SumRefusesNone : Prop :=
  ∀ (s : State) (b : Byte), s.sum = none →
    exec (.sumUpd b) s = .next { s with returned := s.returned ++ [.refusedNoValue] } ∧
    exec .sumRd s = .next { s with returned := s.returned ++ [.refusedNoValue] } ∧
    exec (.sumChk b) s = .next { s with returned := s.returned ++ [.refusedNoValue] }

/-- 41_checksum.md R90 (the spec's decision D10): the checksum is the two's complement of the low eight bits of the plain sum, and the order
of the bytes does not matter. -/
def Obligations.ChecksumIsComplementOfSum : Prop :=
  (∀ s : Bytes, (checksum s).toNat = (256 - (s.map BitVec.toNat).sum % 256) % 256) ∧
  (∀ s t : Bytes, s.Perm t → checksum s = checksum t)

/-- 41_checksum.md R96(a) to (d) (resting on the spec's decision D10): the empty sequence, concatenation adds, a sequence followed by its
checksum validates, and the checksum of that is zero exactly when it does. -/
def Obligations.ChecksumLaws : Prop :=
  checksum [] = 0x00 ∧ (∀ s t, checksum (s ++ t) = checksum s + checksum t) ∧
  (∀ s, validate (s ++ [checksum s]) = some true) ∧
  (∀ s c, validate (s ++ [c]) = some true ↔ checksum (s ++ [c]) = 0x00)

/-- 41_checksum.md R96(e) (resting on the spec's decision D10): a flip of one bit of one byte changes the checksum, so the old checksum no
longer validates, and a flip of one bit of the checksum byte does not validate either. -/
def Obligations.SingleBitFlipDetected : Prop :=
  (∀ (s t : Bytes) (b : Byte) (k : Nat), k < 8 →
    checksum (s ++ (b ^^^ (1#8 <<< k)) :: t) ≠ checksum (s ++ b :: t) ∧
    validate ((s ++ (b ^^^ (1#8 <<< k)) :: t) ++ [checksum (s ++ b :: t)]) = some false) ∧
  (∀ (s : Bytes) (k : Nat), k < 8 → validate (s ++ [checksum s ^^^ (1#8 <<< k)]) = some false)

/-- 41_checksum.md R97 (resting on the spec's decisions D10, D16): after SUM.CLR, whatever operations of the other units are interleaved (any
but RESET and SUM.CLR), SUM.RD returns `checksum` of the bytes given to SUM.UPD, and SUM.CHK t answers MATCH
exactly when the sequence followed by t validates, MISMATCH otherwise. -/
def Obligations.SumStreamingEqualsFunction : Prop :=
  ∀ (ops : List Instr) (s : State) (c : Byte), (∀ i ∈ ops, i ≠ .reset ∧ i ≠ .sumClr) →
    (∃ t, execAll (.sumClr :: (ops ++ [.sumRd])) s = .next t ∧
      t.returned.getLast? = some (.byte (checksum (sumBytes ops)))) ∧
    (∃ t, execAll (.sumClr :: (ops ++ [.sumChk c])) s = .next t ∧
      t.returned.getLast? = some (if validate (sumBytes ops ++ [c]) = some true then .isMatch else .mismatch))

/-! ### The receive accumulator -/

/-- 42_rx_accumulator.md R100 (the spec's decisions D7, D20): up to 1024 bytes the chunk is appended; past it everything is
logged and discarded, and no register changes. -/
def Obligations.ReceiveAppend : Prop :=
  ∀ (s : State) (chunk : Bytes),
    (s.buf.length + chunk.length ≤ 1024 → exec (.rxAppend chunk) s = .next
      { s with buf := s.buf ++ chunk, returned := s.returned ++ [.ok] }) ∧
    (1024 < s.buf.length + chunk.length → exec (.rxAppend chunk) s = .next
      { s with buf := [], out := s.out ++ [.log .overrun (s.buf ++ chunk)],
               returned := s.returned ++ [.overrun] })

/-- 42_rx_accumulator.md R101: RX.FLUSH empties the buffer, touches no register, emits nothing, and has no
encoding a host could invoke; and no operation but RX.APPEND, the parser's and RESET leaves a buffer empty that was
not (the micro-operation as an instruction: log entry 13). -/
def Obligations.FlushEmptiesBuffer : Prop :=
  (∀ s : State, exec .rxFlush s = .next { s with buf := [] }) ∧ encode mfc .rxFlush = none ∧
  (∀ b : Bytes, decodeCommand b ≠ .ok .rxFlush) ∧
  (∀ (i : Instr) (s t : State), exec i s = .next t → s.buf ≠ [] → t.buf = [] →
    i = .rxFlush ∨ (∃ c, i = .rxAppend c) ∨ i = .parseStep ∨ i = .parseRun ∨ i = .reset)

/-! ### The parser -/

/-- 43_frame_parser.md R111 (the spec's decision D27): without a sentinel in the buffer PARSE.STEP waits and consumes
nothing. -/
def Obligations.ParserWaitsForSentinel : Prop :=
  ∀ s : State, NoSentinel s.buf →
    exec .parseStep s = .next { s with returned := s.returned ++ [.waitNoStart] }

/-- 43_frame_parser.md R112 (the spec's decision D5): with fewer than ten bytes from the first sentinel on,
PARSE.STEP waits and consumes nothing. -/
def Obligations.ParserWaitsForHeader : Prop :=
  ∀ (s : State) (off : Nat), FirstSentinel s.buf off → s.buf.length - off < 10 →
    exec .parseStep s = .next { s with returned := s.returned ++ [.waitHeader] }

/-- 43_frame_parser.md R113 (the spec's decision D6): a length byte below ten logs the claimed bytes and discards the
whole buffer. -/
def Obligations.ParserRejectsShortLength : Prop :=
  ∀ (s : State) (off : Nat) (l : Byte), FirstSentinel s.buf off → 10 ≤ s.buf.length - off →
    s.buf.read (off + 1) = some l → l.toNat < 10 →
    exec .parseStep s = .next
      { s with buf := [], out := s.out ++ [.log .badLength ((s.buf.drop off).take (l.toNat + 1))],
               returned := s.returned ++ [.corruptLength] }

/-- 43_frame_parser.md R114: with a well-formed length whose last byte has not arrived, PARSE.STEP waits and
changes nothing, whatever later bytes hold. -/
def Obligations.ParserWaitsForBody : Prop :=
  ∀ (s : State) (off : Nat) (l : Byte), FirstSentinel s.buf off → 10 ≤ s.buf.length - off →
    s.buf.read (off + 1) = some l → 10 ≤ l.toNat → s.buf.length < off + l.toNat + 1 →
    exec .parseStep s = .next { s with returned := s.returned ++ [.waitBody] }

/-- 60_exceptions.md R151, 43_frame_parser.md R115 (exactly what is logged: the spec's decision D20, log entry 20): a complete candidate whose trailing byte is not
the checksum of bytes 1 to L-1 is logged and the entire buffer is discarded, whatever lies after it; and no
operation but PARSE.STEP and PARSE.RUN ever ends so. -/
def Obligations.ParserRejectsWrongChecksum : Prop :=
  (∀ (s : State) (garbage rest more : Bytes) (l c : Byte),
    s.buf = garbage ++ (mfc.startByte :: l :: rest ++ [c]) ++ more → NoSentinel garbage →
    10 ≤ l.toNat → rest.length + 2 = l.toNat → checksum (l :: rest) ≠ c →
    exec .parseStep s = .next
      { s with buf := [], out := s.out ++ [.log .badSum (mfc.startByte :: l :: rest ++ [c])],
               returned := s.returned ++ [.corruptSum] }) ∧
  (∀ (i : Instr) (s t : State), exec i s = .next t → t.returned = s.returned ++ [.corruptSum] →
    i = .parseStep ∨ i = .parseRun)

/-- 43_frame_parser.md R116 to R118, 44_frame_builder.md R134 (the class and the reply's type and bytes: the spec's
decisions D12, D13, log entry 19; the reply's frame: D3, D9, D10, log entries 7, 9): a complete candidate whose trailing byte is the checksum is accepted: the version is
latched, `EV_FRAME` is emitted, a network query is answered with the version just latched, and exactly the bytes
up to the frame's end leave the front of the buffer; whatever identifier, sync, version and type it carries. -/
def Obligations.ParserAcceptsValidFrame : Prop :=
  ∀ (s : State) (garbage payload more : Bytes) (l a y3 y4 y5 y6 y7 v t : Byte),
    s.buf = garbage ++ (mfc.startByte :: [l, a, y3, y4, y5, y6, y7, v, t] ++ payload
      ++ [checksum ([l, a, y3, y4, y5, y6, y7, v, t] ++ payload)]) ++ more →
    NoSentinel garbage → payload.length + 10 = l.toNat →
    exec .parseStep s = .next
      { s with buf := more, protoVer := v,
               out := s.out ++ acceptEvents s.applianceId t
                 { id := a, sync := ⟨y3, y4, y5, y6, y7⟩, ver := v, payload := payload } (classify mfc t),
               returned := s.returned ++ [.gotFrame] }

/-- 43_frame_parser.md R117, 30_encoding.md R65 (the spec's decisions D11, D13): the four named types are pairwise distinct
and select NETQ or TELEMETRY; every other byte is OTHER. -/
def Obligations.FrameTypeClasses : Prop :=
  [mfc.ftNetworkQuery, mfc.ftSet, mfc.ftGet, mfc.ftNotify].Nodup ∧
  classify mfc mfc.ftNetworkQuery = .netq ∧ classify mfc mfc.ftSet = .telemetry ∧
  classify mfc mfc.ftGet = .telemetry ∧ classify mfc mfc.ftNotify = .telemetry ∧
  (∀ t, t ∉ [mfc.ftNetworkQuery, mfc.ftSet, mfc.ftGet, mfc.ftNotify] → classify mfc t = .other)

/-- 30_encoding.md R65, 43_frame_parser.md R117, R118 (the spec's decisions D11 to D13; that a wire row's meaning is the acceptance of the frame: log entries
11, 12): each kind of frame latches the version and emits `EV_FRAME` with its class; a network query is answered as well. -/
def Obligations.WireFrameMeanings : Prop :=
  ∀ (s : State) (w : FrameFields) (t : Byte),
    exec (.frameAny t w) s = .next
      { s with protoVer := w.ver, out := s.out ++ acceptEvents s.applianceId t w (classify mfc t) } ∧
    exec (.frameNetq w) s = .next
      { s with protoVer := w.ver, out := s.out ++ acceptEvents s.applianceId mfc.ftNetworkQuery w .netq } ∧
    exec (.frameSet w) s = .next
      { s with protoVer := w.ver, out := s.out ++ acceptEvents s.applianceId mfc.ftSet w .telemetry } ∧
    exec (.frameGet w) s = .next
      { s with protoVer := w.ver, out := s.out ++ acceptEvents s.applianceId mfc.ftGet w .telemetry } ∧
    exec (.frameNotify w) s = .next
      { s with protoVer := w.ver, out := s.out ++ acceptEvents s.applianceId mfc.ftNotify w .telemetry } ∧
    exec (.frameOther t w) s = .next
      { s with protoVer := w.ver, out := s.out ++ acceptEvents s.applianceId t w .other }

/-- 43_frame_parser.md R122 and R116 (wire rows as instructions: log entry 11): PARSE.STEP on a buffer of garbage
without a sentinel, the encoding of any well-formed wire frame, and anything more runs exactly that frame's
instruction and then removes the garbage and the frame; scanning resumes in what follows. -/
def Obligations.ParserRunsWireFrame : Prop :=
  ∀ (s t : State) (garbage f more : Bytes) (i : Instr), i.wf mfc = true → i.form = .wire →
    encode mfc i = some f → s.buf = garbage ++ f ++ more → NoSentinel garbage → exec i s = .next t →
    exec .parseStep s = .next { t with buf := more, returned := s.returned ++ [.gotFrame] }

/-- 43_frame_parser.md R123: when PARSE.STEP waits, nothing has changed, and invoked again it answers the same. -/
def Obligations.WaitingChangesNothing : Prop :=
  ∀ (s t : State) (r : ResultCode), exec .parseStep s = .next t → t.returned = s.returned ++ [r] →
    r.isWait = true →
    t = { s with returned := s.returned ++ [r] } ∧
    exec .parseStep t = .next { t with returned := t.returned ++ [r] }

/-- 43_frame_parser.md R119: PARSE.RUN (`op` = 0x41) is PARSE.STEP repeated while it answers FRAME; its result is the
first that is not FRAME; each pass that answers FRAME emits one `EV_FRAME`, the last pass none. -/
def Obligations.ParseRunIsTheLoop : Prop :=
  decodeCommand [0x41] = .ok .parseRun ∧
  (∀ (s t : State) (r : ResultCode), exec .parseStep s = .next t → t.returned = s.returned ++ [r] →
    r ≠ .gotFrame → exec .parseRun s = .next t ∧
      ∃ es, t.out = s.out ++ es ∧ es.countP Event.isFrame = 0) ∧
  (∀ s t : State, exec .parseStep s = .next t → t.returned = s.returned ++ [.gotFrame] →
    exec .parseRun s = exec .parseRun { t with returned := s.returned } ∧
      ∃ es, t.out = s.out ++ es ∧ es.countP Event.isFrame = 1)

/-- 43_frame_parser.md R120: PARSE.RUN always ends, with one of five codes, and in a buffer within the ceiling it
accepts at most 93 frames. -/
def Obligations.ParseRunEnds : Prop :=
  ∀ s : State, ∃ t r, exec .parseRun s = .next t ∧ t.returned = s.returned ++ [r] ∧
    r ∈ [ResultCode.waitNoStart, .waitHeader, .waitBody, .corruptLength, .corruptSum] ∧
    (s.buf.wf → (t.out.drop s.out.length).countP Event.isFrame ≤ 93)

/-- 43_frame_parser.md R121 and R116 (the spec's decision D21; wire rows as instructions: log entry 11): reception does
not depend on the configured identifier. With any other one, or none, RX.APPEND, PARSE.STEP, PARSE.RUN and the acceptance
of a wire frame give the same result, the same buffer, registers and version, and the same events but for those sent:
every `EV_FRAME` and `EV_LOG`, in the same order. -/
def Obligations.ReceptionIgnoresIdentifier : Prop :=
  ∀ (i : Instr) (s t : State) (a : Option Byte), i.isReceive = true ∨ i.form = .wire → exec i s = .next t →
    ∃ t', exec i { s with applianceId := a } = .next t' ∧ t' = { t with applianceId := a, out := t'.out } ∧
      t'.out.filter (fun e => !e.isTx) = t.out.filter (fun e => !e.isTx)

/-- 70_reset_and_hazards.md R176(c): two receive schedules (appends and parses in any order) that deliver the same stream
from the same state, each ended by PARSE.RUN, the first meeting no fault and the second no overrun. Then the second meets no
fault either, and both end with the same buffer, the same events in the same order, the same registers and the same last
result. The stream may be longer than the buffer's ceiling. -/
def Obligations.ScheduleDoesNotMatter : Prop :=
  ∀ (one two : List Instr) (s t u : State), (∀ i ∈ one ++ two, i.isReceive = true) → rxBytes one = rxBytes two →
    execAll (one ++ [.parseRun]) s = .next t → (∀ r ∈ t.returned.drop s.returned.length, r.isFault = false) →
    execAll (two ++ [.parseRun]) s = .next u → .overrun ∉ u.returned.drop s.returned.length →
    (∀ r ∈ u.returned.drop s.returned.length, r.isFault = false) ∧
    u = { t with returned := u.returned } ∧ u.returned.getLast? = t.returned.getLast?

/-! ### The builder -/

/-- 44_frame_builder.md R131 (the spec's decisions D3, D15, D17): with an identifier and a payload of at most 245 bytes
TX.FRAME emits the ten header bytes, the payload and the checksum of everything after the sentinel, and changes nothing
else. -/
def Obligations.TransmitFrame : Prop :=
  ∀ (s : State) (a t : Byte) (p : Bytes), s.applianceId = some a → p.length ≤ 245 →
    exec (.txFrame t p) s = .next
      { s with
        out := s.out ++ [.tx ([mfc.startByte, BitVec.ofNat 8 (p.length + 10), a, 0x00, 0x00, 0x00, 0x00, 0x00,
          s.protoVer, t] ++ p ++ [checksum ([BitVec.ofNat 8 (p.length + 10), a, 0x00, 0x00, 0x00, 0x00, 0x00,
          s.protoVer, t] ++ p)])],
        returned := s.returned ++ [.sent] }

/-- 44_frame_builder.md R132 (the spec's decisions D9, D28): TX.BODY appends `crc8` of the body and sends the result as
TX.FRAME does; it completes for every body of at most 244 bytes. -/
def Obligations.TransmitBody : Prop :=
  (∀ (s : State) (t : Byte) (b : Bytes), exec (.txBody t b) s = exec (.txFrame t (b ++ [crc8 mfc b])) s) ∧
  (∀ (s : State) (a t : Byte) (b : Bytes), s.applianceId = some a → b.length ≤ 244 →
    exec (.txBody t b) s = .next
      { s with out := s.out ++ [.tx (outgoing a s.protoVer t (b ++ [crc8 mfc b]))],
               returned := s.returned ++ [.sent] })

/-- 44_frame_builder.md R131, R132 (the spec's decisions D15, D17): without an identifier every send is refused with
REFUSED_NO_ID; with one, a payload past 245 bytes (a body past 244) with REFUSED_TOO_LONG; nothing is emitted. -/
def Obligations.TransmitRefusals : Prop :=
  (∀ (s : State) (t : Byte) (p : Bytes), s.applianceId = none →
    exec (.txFrame t p) s = .next { s with returned := s.returned ++ [.refusedNoId] } ∧
    exec (.txBody t p) s = .next { s with returned := s.returned ++ [.refusedNoId] }) ∧
  (∀ (s : State) (a t : Byte) (p : Bytes), s.applianceId = some a → 245 < p.length →
    exec (.txFrame t p) s = .next { s with returned := s.returned ++ [.refusedTooLong] }) ∧
  (∀ (s : State) (a t : Byte) (b : Bytes), s.applianceId = some a → 244 < b.length →
    exec (.txBody t b) s = .next { s with returned := s.returned ++ [.refusedTooLong] })

/-- 44_frame_builder.md R133, with R131 and R132 for the bytes (the spec's decisions D3, D9, D10, D15, log entries 7, 9,
21): TX.PROBE (`op` = 0x52) is TX.BODY of the type GET and the probe body, 30 bytes, `01 01` and 28
zeros; with an identifier it sends 42 bytes, without one it is refused, and it is never too long. -/
def Obligations.TransmitProbe : Prop :=
  decodeCommand [0x52] = .ok .txProbe ∧
  (∀ s : State, exec .txProbe s = exec (.txBody mfc.ftGet (0x01 :: 0x01 :: List.replicate 28 0x00)) s) ∧
  (∀ (s : State) (a : Byte), s.applianceId = some a → ∃ f : Bytes, f.length = 42 ∧
    f = outgoing a s.protoVer mfc.ftGet ((0x01 :: 0x01 :: List.replicate 28 0x00)
      ++ [crc8 mfc (0x01 :: 0x01 :: List.replicate 28 0x00)]) ∧
    exec .txProbe s = .next { s with out := s.out ++ [.tx f], returned := s.returned ++ [.sent] }) ∧
  (∀ s : State, s.applianceId = none →
    exec .txProbe s = .next { s with returned := s.returned ++ [.refusedNoId] })

/-- 44_frame_builder.md R134 (the spec's decision D12; no code is returned to the host: log entry 13): TX.NQREPLY emits
the reply of 32 bytes, type NETWORK_QUERY, with the version held at that moment; without an identifier it does nothing;
it has no encoding. -/
def Obligations.NetworkQueryReply : Prop :=
  (∀ s : State, exec .txNqReply s = .next
    { s with out := s.out ++ replyEvents s.applianceId s.protoVer }) ∧
  (∀ (a v : Byte) (f : Bytes), Event.tx f ∈ replyEvents (some a) v → f.length = 32) ∧
  encode mfc .txNqReply = none ∧ (∀ b : Bytes, decodeCommand b ≠ .ok .txNqReply)

/-- 44_frame_builder.md R135 (resting on the spec's decisions D3 to D6, D10): a frame that TX.FRAME sends, given to any instance whose buffer is
empty, is accepted with the builder's identifier and version, zero sync, the type and the payload that were sent, and
leaves that buffer empty; whatever bytes the payload holds. -/
def Obligations.BuildThenParse : Prop :=
  ∀ (s r : State) (a t : Byte) (p : Bytes), s.applianceId = some a → p.length ≤ 245 → r.buf = [] →
    ∃ f, exec (.txFrame t p) s = .next { s with out := s.out ++ [.tx f], returned := s.returned ++ [.sent] } ∧
      execAll [.rxAppend f, .parseStep] r = .next
        { r with protoVer := s.protoVer,
                 out := r.out ++ acceptEvents r.applianceId t
                   { id := a, sync := ⟨0x00, 0x00, 0x00, 0x00, 0x00⟩, ver := s.protoVer, payload := p }
                   (classify mfc t),
                 returned := r.returned ++ [.ok, .gotFrame] }

/-- 30_encoding.md R67, 00_scope.md R11, 44_frame_builder.md R136: each action body has 30 bytes, so that an action's frame has 42 bytes, and the body of
`status` "on" is the probe body. -/
def Obligations.ActionFrames : Prop :=
  (∀ x : Config.Action, (Config.actionBody x).length = 30) ∧
  Config.actionBody .statusOn = Config.probeBody ∧
  (∀ (x : Config.Action) (s : State) (a : Byte), s.applianceId = some a → ∃ f : Bytes, f.length = 42 ∧
    exec (.txBody mfc.ftSet (Config.actionBody x)) s = .next
      { s with out := s.out ++ [.tx f], returned := s.returned ++ [.sent] })

/-! ### The whole machine -/

/-- 10_state.md section 1, the register summary (rules R20 to R23, the spec's decisions D14 to D16): a register changes in
no operation but those the summary names (PARSE.RUN repeats PARSE.STEP), RESET, which sets all four (70_reset_and_hazards.md
R170), and, for `proto_ver`, the wire rows run as instructions, whose acceptance is the summary's write by PARSE.STEP (log
entry 11). What the named operations write is said by the statements about them. -/
def Obligations.RegisterWriters : Prop :=
  ∀ (i : Instr) (s t : State), exec i s = .next t →
    (t.crc ≠ s.crc → i = .crcClr ∨ (∃ b, i = .crcUpd b) ∨ i = .reset) ∧
    (t.sum ≠ s.sum → i = .sumClr ∨ (∃ b, i = .sumUpd b) ∨ i = .reset) ∧
    (t.protoVer ≠ s.protoVer → i = .parseStep ∨ i = .parseRun ∨ i = .reset ∨ i.form = .wire) ∧
    (t.applianceId ≠ s.applianceId → (∃ id, i = .cfgId id) ∨ i = .reset)

/-- 20_memory.md R46: the buffer changes only by an append at the end, by removing a prefix, or by a discard, and only
in the operations the rule names: at every address the byte is the one that was there, or the one k addresses up after a
removal of k bytes; never modified in place, never reordered. -/
def Obligations.BufferWriters : Prop :=
  ∀ (i : Instr) (s t : State), exec i s = .next t →
    (∀ a, t.buf.read a = s.buf.read a) ∨
    (∃ c, i = .rxAppend c ∧ ∀ a, t.buf.read a = (s.buf ++ c).read a) ∨
    ((i = .parseStep ∨ i = .parseRun) ∧ ∃ k, 0 < k ∧ k ≤ s.buf.length ∧
      ∀ a, t.buf.read a = s.buf.read (a + k)) ∨
    ((i = .parseStep ∨ i = .parseRun ∨ i = .reset ∨ i = .rxFlush ∨ ∃ c, i = .rxAppend c) ∧
      ∀ a, t.buf.read a = none)

/-- 10_state.md R26, R27 (the spec's decision D1; the pending list: log entry 3): the event stream only grows at its end;
`EV_LOG` comes from RX.APPEND and the parser, `EV_FRAME` from the parser (or the acceptance of a wire frame), `EV_TX` from
the builder (or an automatic reply); no operation touches the commands still pending. -/
def Obligations.EventSources : Prop :=
  ∀ (i : Instr) (s t : State), exec i s = .next t → t.pending = s.pending ∧
    ∃ es, t.out = s.out ++ es ∧
      ((∃ e ∈ es, e.isLog = true) → i = .parseStep ∨ i = .parseRun ∨ ∃ c, i = .rxAppend c) ∧
      ((∃ e ∈ es, e.isFrame = true) → i = .parseStep ∨ i = .parseRun ∨ i.form = .wire) ∧
      ((∃ e ∈ es, e.isTx = true) → i = .parseStep ∨ i = .parseRun ∨ i.form = .wire ∨ i = .txNqReply ∨
        i = .txProbe ∨ (∃ ty p, i = .txFrame ty p) ∨ ∃ ty b, i = .txBody ty b)

/-- 10_state.md R22 (the spec's decision D14): after any operation but RESET, `proto_ver` is the version of the last frame accepted in
it, and unchanged where it accepted none; in particular a frame that fails validation does not change it. -/
def Obligations.ProtoVerIsLastAccepted : Prop :=
  ∀ (i : Instr) (s t : State), exec i s = .next t → i ≠ .reset →
    ∃ es, t.out = s.out ++ es ∧ t.protoVer = lastVersion s.protoVer es

/-- 00_scope.md R18(b) (the spec's decision D1): an operation that answers a `REFUSED_*` code has changed nothing and emitted
nothing. -/
def Obligations.RefusalsChangeNothing : Prop :=
  ∀ (i : Instr) (s t : State) (r : ResultCode), exec i s = .next t → t.returned = s.returned ++ [r] →
    r.isRefusal = true → t = { s with returned := s.returned ++ [r] }

/-- 60_exceptions.md R158: an operation that answers `CORRUPT_*` or `OVERRUN` has emitted one log event, of that
cause, as its last event, and emptied the buffer; `crc`, `sum` and `appliance_id` keep their values, the events emitted
before in the same PARSE.RUN stand, and `proto_ver` is that of the last frame accepted before (unchanged if none). -/
def Obligations.FaultEntry : Prop :=
  ∀ (i : Instr) (s t : State) (r : ResultCode), exec i s = .next t → t.returned = s.returned ++ [r] →
    r.isFault = true →
    t.buf = [] ∧ t.crc = s.crc ∧ t.sum = s.sum ∧ t.applianceId = s.applianceId ∧ t.pending = s.pending ∧
    ∃ es c bytes, t.out = s.out ++ es ++ [.log c bytes] ∧ c.result = r ∧
      (∀ e ∈ es, e.isLog = false) ∧ t.protoVer = lastVersion s.protoVer es ∧ (i ≠ .parseRun → es = [])

/-- 10_state.md R20, R21 (the spec's decision D16): the parser, the builder, the accumulator and the configuration neither
read nor write `crc` and `sum`: with other values in the two registers they do the same, and leave those values. -/
def Obligations.UnitsAreIndependent : Prop :=
  ∀ (i : Instr) (s t : State) (c d : Option Byte), i.isUnit = false → i ≠ .reset → exec i s = .next t →
    exec i { s with crc := c, sum := d } = .next { t with crc := c, sum := d }

/-- 10_state.md R24, 42_rx_accumulator.md R103 (the spec's decisions D7, D15), and the form of events, R26: the invariant
holds at reset. The half about events holds because the event stream is empty at power-on, which is the model's choice (log
entry 10). -/
def Obligations.ResetMeetsInvariant : Prop := Inv State.reset

/-- 10_state.md R24, 42_rx_accumulator.md R103, and the form of events, R26 (the spec's decisions D3, D7, D20): from every state in which
the buffer is within its ceiling and every emitted event is well-formed (each sent frame one whole valid frame), every
step leads to such a state. -/
def Obligations.StepKeepsInvariant : Prop :=
  ∀ s t : State, Inv s → step s = .next t → Inv t
end

