-- ==== Sys2Proof/Laws/Decode.lean ====
section
/-! SUPPORT. The small lemmas of the decoders, the sequence functions and the checksum. -/

namespace Sys2Proof

open Config (Params)

@[simp] theorem Opcode.ofByte?_code (o : Opcode) : Opcode.ofByte? o.code = some o := by
  cases o <;> decide

theorem Opcode.code_of_ofByte? {op : Byte} {o : Opcode} (h : Opcode.ofByte? op = some o) : o.code = op := by
  simpa using List.find?_some h

@[simp] theorem decodeCommand_packet (o : Opcode) (args : Bytes) :
    decodeCommand (o.packet args) = o.operands args := by
  simp [decodeCommand, Opcode.packet]

@[simp] theorem noOperand_nil (i : Instr) : noOperand i [] = .ok i := rfl

@[simp] theorem byteOperand_one (f : Byte → Instr) (b : Byte) : byteOperand f [b] = .ok (f b) := rfl

@[simp] theorem byteSeqOperands_cons (f : Byte → Bytes → Instr) (b : Byte) (s : Bytes) :
    byteSeqOperands f (b :: s) = .ok (f b s) := rfl

/-- Ten bytes are a header. -/
@[simp] theorem Header.read_cons (b0 b1 b2 b3 b4 b5 b6 b7 b8 b9 : Byte) (s : Bytes) :
    Header.read (b0 :: b1 :: b2 :: b3 :: b4 :: b5 :: b6 :: b7 :: b8 :: b9 :: s) =
      some { start := b0, length := b1, id := b2, sync := ⟨b3, b4, b5, b6, b7⟩, ver := b8, type := b9 } := rfl

/-- What a header that was read says of the bytes: they begin with it. -/
theorem Header.read_eq_some {f : Bytes} {h : Header} (hr : Header.read f = some h) :
    ∃ s, f = [h.start, h.length, h.id, h.sync.s3, h.sync.s4, h.sync.s5, h.sync.s6, h.sync.s7, h.ver, h.type] ++ s := by
  unfold Header.read at hr
  split at hr
  · cases hr
    exact ⟨_, rfl⟩
  · cases hr

/-- A header is absent exactly when fewer than ten bytes are there (43_frame_parser.md R112). -/
theorem Header.read_eq_none {f : Bytes} : Header.read f = none ↔ f.length < 10 := by
  constructor
  · intro h
    unfold Header.read at h
    split at h
    · cases h
    · next hn =>
      by_contra hc
      match f, hn, hc with
      | b0 :: b1 :: b2 :: b3 :: b4 :: b5 :: b6 :: b7 :: b8 :: b9 :: s, hn, _ => exact hn _ _ _ _ _ _ _ _ _ _ _ rfl
      | [], _, hc | [_], _, hc | [_, _], _, hc | [_, _, _], _, hc | [_, _, _, _], _, hc | [_, _, _, _, _], _, hc
      | [_, _, _, _, _, _], _, hc | [_, _, _, _, _, _, _], _, hc | [_, _, _, _, _, _, _, _], _, hc
      | [_, _, _, _, _, _, _, _, _], _, hc => simp at hc
  · intro h
    cases hr : Header.read f with
    | none => rfl
    | some d =>
      obtain ⟨s, rfl⟩ := Header.read_eq_some hr
      simp at h
      omega

theorem slice_length (s : Bytes) (i j : Nat) : (slice s i j).length = min j s.length - i := by
  simp [slice]

theorem slice_eq_take_drop (s : Bytes) (i j : Nat) : slice s i j = (s.drop i).take (j - i) := by
  simp [slice, List.drop_take]

/-- `find` answers the lowest address of the value (43_frame_parser.md R111). -/
theorem find_eq_some {s : Bytes} {v : Byte} {i : Nat} :
    find s v = some i ↔ s[i]? = some v ∧ ∀ j, j < i → s[j]? ≠ some v := by
  simp only [find, List.findIdx?_eq_some_iff_getElem, decide_eq_true_eq]
  constructor
  · rintro ⟨h, hi, hj⟩
    refine ⟨by simp [List.getElem?_eq_getElem h, hi], fun j hlt => ?_⟩
    have hjl : j < s.length := by omega
    simpa [List.getElem?_eq_getElem hjl] using hj j hlt
  · rintro ⟨h, hj⟩
    obtain ⟨hl, hv⟩ := List.getElem?_eq_some_iff.mp h
    refine ⟨hl, hv, fun j hlt => ?_⟩
    have hjl : j < s.length := by omega
    simpa [List.getElem?_eq_getElem hjl] using hj j hlt

theorem find_eq_none {s : Bytes} {v : Byte} : find s v = none ↔ ∀ b ∈ s, b ≠ v := by
  simp [find, List.findIdx?_eq_none_iff]

/-- A sequence without the value before its first occurrence. -/
theorem find_append_cons {g s : Bytes} {v : Byte} (hg : ∀ b ∈ g, b ≠ v) : find (g ++ v :: s) v = some g.length := by
  refine find_eq_some.mpr ⟨by simp, fun j hj => ?_⟩
  rw [List.getElem?_append_left hj, List.getElem?_eq_getElem hj]
  exact fun h => hg _ (List.getElem_mem hj) (Option.some.inj h)

theorem checksumFrom_append (a : Byte) (s t : Bytes) :
    checksumFrom a (s ++ t) = checksumFrom (checksumFrom a s) t := by
  simp [checksumFrom]

theorem checksumFrom_eq_add (a : Byte) (s : Bytes) : checksumFrom a s = a + checksum s := by
  induction s generalizing a with
  | nil => simp [checksumFrom, checksum]
  | cons b s ih =>
    have h : ∀ x, checksumFrom x (b :: s) = checksumFrom (x - b) s := fun _ => rfl
    rw [checksum, h, h, ih (a - b), ih (Config.sumInit - b)]
    simp [BitVec.sub_eq_add_neg, BitVec.add_assoc]

@[simp] theorem encodeFrame_length (P : Params) (t : Byte) (w : FrameFields) :
    (encodeFrame P t w).length = w.payload.length + 11 := by
  simp [encodeFrame, frameHead]

theorem typeCode_ne (P : Params) {a b : Byte} (h : a ≠ b) : P.typeCode a ≠ P.typeCode b :=
  fun e => h (P.typeCode.injective e)

end Sys2Proof
end

