-- ==== Sys2Proof/Laws/State.lean ====
section
/-! SUPPORT. What each state update does to each field, so that no proof unfolds a record update. -/

namespace Sys2Proof.Machine

@[simp] theorem State.setCrc_buf (s : State) (v : Option Byte) : (s.setCrc v).buf = s.buf := rfl
@[simp] theorem State.setCrc_crc (s : State) (v : Option Byte) : (s.setCrc v).crc = v := rfl
@[simp] theorem State.setCrc_sum (s : State) (v : Option Byte) : (s.setCrc v).sum = s.sum := rfl
@[simp] theorem State.setCrc_protoVer (s : State) (v : Option Byte) : (s.setCrc v).protoVer = s.protoVer := rfl
@[simp] theorem State.setCrc_applianceId (s : State) (v : Option Byte) : (s.setCrc v).applianceId = s.applianceId := rfl
@[simp] theorem State.setCrc_out (s : State) (v : Option Byte) : (s.setCrc v).out = s.out := rfl
@[simp] theorem State.setCrc_returned (s : State) (v : Option Byte) : (s.setCrc v).returned = s.returned := rfl
@[simp] theorem State.setCrc_pending (s : State) (v : Option Byte) : (s.setCrc v).pending = s.pending := rfl

@[simp] theorem State.setSum_buf (s : State) (v : Option Byte) : (s.setSum v).buf = s.buf := rfl
@[simp] theorem State.setSum_crc (s : State) (v : Option Byte) : (s.setSum v).crc = s.crc := rfl
@[simp] theorem State.setSum_sum (s : State) (v : Option Byte) : (s.setSum v).sum = v := rfl
@[simp] theorem State.setSum_protoVer (s : State) (v : Option Byte) : (s.setSum v).protoVer = s.protoVer := rfl
@[simp] theorem State.setSum_applianceId (s : State) (v : Option Byte) : (s.setSum v).applianceId = s.applianceId := rfl
@[simp] theorem State.setSum_out (s : State) (v : Option Byte) : (s.setSum v).out = s.out := rfl
@[simp] theorem State.setSum_returned (s : State) (v : Option Byte) : (s.setSum v).returned = s.returned := rfl
@[simp] theorem State.setSum_pending (s : State) (v : Option Byte) : (s.setSum v).pending = s.pending := rfl

@[simp] theorem State.setProtoVer_buf (s : State) (v : Byte) : (s.setProtoVer v).buf = s.buf := rfl
@[simp] theorem State.setProtoVer_crc (s : State) (v : Byte) : (s.setProtoVer v).crc = s.crc := rfl
@[simp] theorem State.setProtoVer_sum (s : State) (v : Byte) : (s.setProtoVer v).sum = s.sum := rfl
@[simp] theorem State.setProtoVer_protoVer (s : State) (v : Byte) : (s.setProtoVer v).protoVer = v := rfl
@[simp] theorem State.setProtoVer_applianceId (s : State) (v : Byte) : (s.setProtoVer v).applianceId = s.applianceId := rfl
@[simp] theorem State.setProtoVer_out (s : State) (v : Byte) : (s.setProtoVer v).out = s.out := rfl
@[simp] theorem State.setProtoVer_returned (s : State) (v : Byte) : (s.setProtoVer v).returned = s.returned := rfl
@[simp] theorem State.setProtoVer_pending (s : State) (v : Byte) : (s.setProtoVer v).pending = s.pending := rfl

@[simp] theorem State.setApplianceId_buf (s : State) (v : Option Byte) : (s.setApplianceId v).buf = s.buf := rfl
@[simp] theorem State.setApplianceId_crc (s : State) (v : Option Byte) : (s.setApplianceId v).crc = s.crc := rfl
@[simp] theorem State.setApplianceId_sum (s : State) (v : Option Byte) : (s.setApplianceId v).sum = s.sum := rfl
@[simp] theorem State.setApplianceId_protoVer (s : State) (v : Option Byte) : (s.setApplianceId v).protoVer = s.protoVer := rfl
@[simp] theorem State.setApplianceId_applianceId (s : State) (v : Option Byte) : (s.setApplianceId v).applianceId = v := rfl
@[simp] theorem State.setApplianceId_out (s : State) (v : Option Byte) : (s.setApplianceId v).out = s.out := rfl
@[simp] theorem State.setApplianceId_returned (s : State) (v : Option Byte) : (s.setApplianceId v).returned = s.returned := rfl
@[simp] theorem State.setApplianceId_pending (s : State) (v : Option Byte) : (s.setApplianceId v).pending = s.pending := rfl

@[simp] theorem State.append_buf (s : State) (c : Bytes) : (s.append c).buf = s.buf ++ c := rfl
@[simp] theorem State.append_crc (s : State) (c : Bytes) : (s.append c).crc = s.crc := rfl
@[simp] theorem State.append_sum (s : State) (c : Bytes) : (s.append c).sum = s.sum := rfl
@[simp] theorem State.append_protoVer (s : State) (c : Bytes) : (s.append c).protoVer = s.protoVer := rfl
@[simp] theorem State.append_applianceId (s : State) (c : Bytes) : (s.append c).applianceId = s.applianceId := rfl
@[simp] theorem State.append_out (s : State) (c : Bytes) : (s.append c).out = s.out := rfl
@[simp] theorem State.append_returned (s : State) (c : Bytes) : (s.append c).returned = s.returned := rfl
@[simp] theorem State.append_pending (s : State) (c : Bytes) : (s.append c).pending = s.pending := rfl

@[simp] theorem State.removeFront_buf (s : State) (k : Nat) : (s.removeFront k).buf = s.buf.drop k := rfl
@[simp] theorem State.removeFront_crc (s : State) (k : Nat) : (s.removeFront k).crc = s.crc := rfl
@[simp] theorem State.removeFront_sum (s : State) (k : Nat) : (s.removeFront k).sum = s.sum := rfl
@[simp] theorem State.removeFront_protoVer (s : State) (k : Nat) : (s.removeFront k).protoVer = s.protoVer := rfl
@[simp] theorem State.removeFront_applianceId (s : State) (k : Nat) : (s.removeFront k).applianceId = s.applianceId := rfl
@[simp] theorem State.removeFront_out (s : State) (k : Nat) : (s.removeFront k).out = s.out := rfl
@[simp] theorem State.removeFront_returned (s : State) (k : Nat) : (s.removeFront k).returned = s.returned := rfl
@[simp] theorem State.removeFront_pending (s : State) (k : Nat) : (s.removeFront k).pending = s.pending := rfl

@[simp] theorem State.discard_buf (s : State) : s.discard.buf = [] := rfl
@[simp] theorem State.discard_crc (s : State) : s.discard.crc = s.crc := rfl
@[simp] theorem State.discard_sum (s : State) : s.discard.sum = s.sum := rfl
@[simp] theorem State.discard_protoVer (s : State) : s.discard.protoVer = s.protoVer := rfl
@[simp] theorem State.discard_applianceId (s : State) : s.discard.applianceId = s.applianceId := rfl
@[simp] theorem State.discard_out (s : State) : s.discard.out = s.out := rfl
@[simp] theorem State.discard_returned (s : State) : s.discard.returned = s.returned := rfl
@[simp] theorem State.discard_pending (s : State) : s.discard.pending = s.pending := rfl

@[simp] theorem State.emit_buf (s : State) (e : Event) : (s.emit e).buf = s.buf := rfl
@[simp] theorem State.emit_crc (s : State) (e : Event) : (s.emit e).crc = s.crc := rfl
@[simp] theorem State.emit_sum (s : State) (e : Event) : (s.emit e).sum = s.sum := rfl
@[simp] theorem State.emit_protoVer (s : State) (e : Event) : (s.emit e).protoVer = s.protoVer := rfl
@[simp] theorem State.emit_applianceId (s : State) (e : Event) : (s.emit e).applianceId = s.applianceId := rfl
@[simp] theorem State.emit_out (s : State) (e : Event) : (s.emit e).out = s.out ++ [e] := rfl
@[simp] theorem State.emit_returned (s : State) (e : Event) : (s.emit e).returned = s.returned := rfl
@[simp] theorem State.emit_pending (s : State) (e : Event) : (s.emit e).pending = s.pending := rfl

@[simp] theorem State.ret_buf (s : State) (r : ResultCode) : (s.ret r).buf = s.buf := rfl
@[simp] theorem State.ret_crc (s : State) (r : ResultCode) : (s.ret r).crc = s.crc := rfl
@[simp] theorem State.ret_sum (s : State) (r : ResultCode) : (s.ret r).sum = s.sum := rfl
@[simp] theorem State.ret_protoVer (s : State) (r : ResultCode) : (s.ret r).protoVer = s.protoVer := rfl
@[simp] theorem State.ret_applianceId (s : State) (r : ResultCode) : (s.ret r).applianceId = s.applianceId := rfl
@[simp] theorem State.ret_out (s : State) (r : ResultCode) : (s.ret r).out = s.out := rfl
@[simp] theorem State.ret_returned (s : State) (r : ResultCode) : (s.ret r).returned = s.returned ++ [r] := rfl
@[simp] theorem State.ret_pending (s : State) (r : ResultCode) : (s.ret r).pending = s.pending := rfl

@[simp] theorem flush_buf (s : State) : (flush s).buf = [] := rfl
@[simp] theorem flush_crc (s : State) : (flush s).crc = s.crc := rfl
@[simp] theorem flush_sum (s : State) : (flush s).sum = s.sum := rfl
@[simp] theorem flush_protoVer (s : State) : (flush s).protoVer = s.protoVer := rfl
@[simp] theorem flush_applianceId (s : State) : (flush s).applianceId = s.applianceId := rfl
@[simp] theorem flush_out (s : State) : (flush s).out = s.out := rfl
@[simp] theorem flush_returned (s : State) : (flush s).returned = s.returned := rfl
@[simp] theorem flush_pending (s : State) : (flush s).pending = s.pending := rfl

@[simp] theorem finish_pair (s : State) (r : ResultCode) : finish (s, r) = .next (s.ret r) := rfl

end Sys2Proof.Machine
end

