-- ==== Sys2Proof/Laws/Memory.lean ====
section
/-! SUPPORT. BUF: reads after writes, and every buffer primitive keeps the memory invariant. -/

namespace Sys2Proof.Machine

/-- The view of BUF as cells, address and byte, in address order. -/
def Memory.cells (m : Memory) : List Host.Cell := m.zipIdx.map (fun p => (p.2, p.1))

/-- The addresses of the cells are 0 .. len-1: strictly rising, without holes or repeats. -/
theorem Memory.cells_addresses (m : Memory) : m.cells.map Prod.fst = List.range m.length := by
  simp [Memory.cells, List.zipIdx_eq_zip_range', List.range_eq_range', Function.comp_def]
  rw [show (fun p : Byte × Nat => p.2) = Prod.snd from rfl, List.map_snd_zip (by simp)]

@[simp] theorem Memory.read_nil (a : Nat) : Memory.read [] a = none := rfl

theorem Memory.read_append_left (m c : Memory) (a : Nat) (h : a < m.length) :
    Memory.read (m ++ c) a = m.read a := List.getElem?_append_left h

theorem Memory.read_append_right (m c : Memory) (a : Nat) :
    Memory.read (m ++ c) (m.length + a) = c.read a := by
  rw [Memory.read, Memory.read, List.getElem?_append_right (Nat.le_add_right _ _), Nat.add_sub_cancel_left]

@[simp] theorem Memory.read_drop (m : Memory) (k a : Nat) : Memory.read (m.drop k) a = m.read (k + a) :=
  List.getElem?_drop

theorem Memory.read_eq_none (m : Memory) (a : Nat) : m.read a = none ↔ m.length ≤ a :=
  List.getElem?_eq_none_iff

theorem wf_discard (s : State) : s.discard.buf.wf := Nat.zero_le _

theorem wf_removeFront {s : State} (h : s.buf.wf) (k : Nat) : (s.removeFront k).buf.wf := by
  simp only [Memory.wf, State.removeFront_buf, List.length_drop] at *
  omega

theorem wf_append {s : State} {c : Bytes} (h : overCeiling (s.append c).buf = false) : (s.append c).buf.wf := by
  simpa [overCeiling, Memory.wf] using h

theorem wf_reset : State.reset.buf.wf := Nat.zero_le _

end Sys2Proof.Machine
end

