-- ==== Sys2Proof/Laws/Ops.lean ====
section
/-! SUPPORT. One lemma per shared operation: everything it can do. Later proofs cite these and do not unfold
the operations. -/

namespace Sys2Proof.Machine

open Config (Params)

@[simp] theorem raise_eq (c : Cause) (b : Bytes) (s : State) :
    raise c b s = ({ s with buf := [], out := s.out ++ [.log c b] }, c.result) := rfl

theorem crcUpdate_cases (P : Params) (b : Byte) (s : State) :
    (s.crc = none ∧ crcUpdate P b s = (s, .refusedNoValue)) ∨
    (∃ c, s.crc = some c ∧ crcUpdate P b s = (s.setCrc (some (P.crcTable (c ^^^ b))), .done)) := by
  unfold crcUpdate
  cases h : s.crc with
  | none => exact .inl ⟨rfl, rfl⟩
  | some c => exact .inr ⟨c, rfl, rfl⟩

theorem crcRead_cases (s : State) :
    (s.crc = none ∧ crcRead s = (s, .refusedNoValue)) ∨
    (∃ c, s.crc = some c ∧ crcRead s = (s, .byte c)) := by
  unfold crcRead
  cases h : s.crc with
  | none => exact .inl ⟨rfl, rfl⟩
  | some c => exact .inr ⟨c, rfl, rfl⟩

theorem sumUpdate_cases (b : Byte) (s : State) :
    (s.sum = none ∧ sumUpdate b s = (s, .refusedNoValue)) ∨
    (∃ a, s.sum = some a ∧ sumUpdate b s = (s.setSum (some (a - b)), .done)) := by
  unfold sumUpdate
  cases h : s.sum with
  | none => exact .inl ⟨rfl, rfl⟩
  | some c => exact .inr ⟨c, rfl, rfl⟩

theorem sumRead_cases (s : State) :
    (s.sum = none ∧ sumRead s = (s, .refusedNoValue)) ∨
    (∃ a, s.sum = some a ∧ sumRead s = (s, .byte a)) := by
  unfold sumRead
  cases h : s.sum with
  | none => exact .inl ⟨rfl, rfl⟩
  | some c => exact .inr ⟨c, rfl, rfl⟩

theorem sumCheck_cases (t : Byte) (s : State) :
    (s.sum = none ∧ sumCheck t s = (s, .refusedNoValue)) ∨
    (∃ a, s.sum = some a ∧ sumCheck t s = (s, compareCode a t)) := by
  unfold sumCheck
  cases h : s.sum with
  | none => exact .inl ⟨rfl, rfl⟩
  | some c => exact .inr ⟨c, rfl, rfl⟩

theorem rxAppend_cases (c : Bytes) (s : State) :
    (s.buf.length + c.length ≤ Config.bufCeiling ∧ rxAppend c s = (s.append c, .ok)) ∨
    (Config.bufCeiling < s.buf.length + c.length ∧ rxAppend c s = raise .overrun (s.buf ++ c) s) := by
  unfold rxAppend
  by_cases h : s.buf.length + c.length ≤ Config.bufCeiling
  · left
    simp [overCeiling, h]
  · right
    simp [overCeiling, Nat.lt_of_not_le h, State.append]

theorem txFrame_cases (P : Params) (t : Byte) (p : Bytes) (s : State) :
    (s.applianceId = none ∧ txFrame P t p s = (s, .refusedNoId)) ∨
    (∃ a, s.applianceId = some a ∧ 245 < p.length ∧ txFrame P t p s = (s, .refusedTooLong)) ∨
    (∃ a, s.applianceId = some a ∧ p.length ≤ 245 ∧
      txFrame P t p s = (s.emit (.tx (buildFrame P a s.protoVer t p)), .sent)) := by
  unfold txFrame
  cases h : s.applianceId with
  | none => exact .inl ⟨rfl, rfl⟩
  | some a =>
    by_cases hp : p.length ≤ 245
    · exact .inr (.inr ⟨a, rfl, hp, by simp [tooLong, Config.headerSize]; omega⟩)
    · exact .inr (.inl ⟨a, rfl, by omega, by simp [tooLong, Config.headerSize]; omega⟩)

@[simp] theorem withCrc_length (P : Params) (b : Bytes) : (withCrc P b).length = b.length + 1 := by
  simp [withCrc]

/-- The automatic reply always fits its length byte: it is sent, or refused for want of an identifier. -/
theorem nqReply_cases (P : Params) (s : State) :
    (s.applianceId = none ∧ nqReply P s = (s, .refusedNoId)) ∨
    (∃ a, s.applianceId = some a ∧ nqReply P s =
      (s.emit (.tx (buildFrame P a s.protoVer P.ftNetworkQuery (withCrc P P.nqReplyBody.toList))), .sent)) := by
  rcases txFrame_cases P P.ftNetworkQuery (withCrc P P.nqReplyBody.toList) s with h | ⟨a, _, hl, _⟩ | ⟨a, ha, _, h⟩
  · exact .inl h
  · simp at hl
  · exact .inr ⟨a, ha, h⟩

/-- Acceptance: the version, one `EV_FRAME`, and for a network query the reply. -/
theorem acceptFrame_cases (P : Params) (cls : FrameClass) (t : Byte) (w : FrameFields) (s : State) :
    (cls = .netq ∧ acceptFrame P cls t w s =
      (nqReply P ((s.setProtoVer w.ver).emit (frameEvent cls t w))).1) ∨
    (cls ≠ .netq ∧ acceptFrame P cls t w s = (s.setProtoVer w.ver).emit (frameEvent cls t w)) := by
  cases cls
  · exact .inl ⟨rfl, rfl⟩
  · exact .inr ⟨by decide, rfl⟩
  · exact .inr ⟨by decide, rfl⟩

/-- Acceptance touches the version and the event stream only. -/
theorem acceptFrame_frame (P : Params) (cls : FrameClass) (t : Byte) (w : FrameFields) (s : State) :
    ∃ es, acceptFrame P cls t w s =
      { s with protoVer := w.ver, out := s.out ++ frameEvent cls t w :: es } ∧
      (es = [] ∨ ∃ b, cls = .netq ∧ es = [.tx b]) := by
  rcases acceptFrame_cases P cls t w s with ⟨hc, h⟩ | ⟨_, h⟩
  · rcases nqReply_cases P ((s.setProtoVer w.ver).emit (frameEvent cls t w)) with ⟨_, hr⟩ | ⟨a, _, hr⟩
    · exact ⟨[], by rw [h, hr]; rfl, .inl rfl⟩
    · refine ⟨[.tx (buildFrame P a w.ver P.ftNetworkQuery (withCrc P P.nqReplyBody.toList))], ?_,
        .inr ⟨_, hc, rfl⟩⟩
      rw [h, hr]
      simp [State.emit, State.setProtoVer]
  · exact ⟨[], h, .inl rfl⟩

@[simp] theorem acceptFrame_buf (P : Params) (cls : FrameClass) (t : Byte) (w : FrameFields) (s : State) :
    (acceptFrame P cls t w s).buf = s.buf := by
  obtain ⟨es, h, _⟩ := acceptFrame_frame P cls t w s
  rw [h]

@[simp] theorem acceptFrame_crc (P : Params) (cls : FrameClass) (t : Byte) (w : FrameFields) (s : State) :
    (acceptFrame P cls t w s).crc = s.crc := by
  obtain ⟨es, h, _⟩ := acceptFrame_frame P cls t w s
  rw [h]

@[simp] theorem acceptFrame_sum (P : Params) (cls : FrameClass) (t : Byte) (w : FrameFields) (s : State) :
    (acceptFrame P cls t w s).sum = s.sum := by
  obtain ⟨es, h, _⟩ := acceptFrame_frame P cls t w s
  rw [h]

@[simp] theorem acceptFrame_applianceId (P : Params) (cls : FrameClass) (t : Byte) (w : FrameFields) (s : State) :
    (acceptFrame P cls t w s).applianceId = s.applianceId := by
  obtain ⟨es, h, _⟩ := acceptFrame_frame P cls t w s
  rw [h]

@[simp] theorem acceptFrame_returned (P : Params) (cls : FrameClass) (t : Byte) (w : FrameFields) (s : State) :
    (acceptFrame P cls t w s).returned = s.returned := by
  obtain ⟨es, h, _⟩ := acceptFrame_frame P cls t w s
  rw [h]

@[simp] theorem acceptFrame_pending (P : Params) (cls : FrameClass) (t : Byte) (w : FrameFields) (s : State) :
    (acceptFrame P cls t w s).pending = s.pending := by
  obtain ⟨es, h, _⟩ := acceptFrame_frame P cls t w s
  rw [h]

@[simp] theorem txFrame_buf (P : Params) (t : Byte) (p : Bytes) (s : State) :
    (txFrame P t p s).1.buf = s.buf := by
  rcases txFrame_cases P t p s with ⟨_, h⟩ | ⟨_, _, _, h⟩ | ⟨_, _, _, h⟩ <;> simp [h]

@[simp] theorem txFrame_crc (P : Params) (t : Byte) (p : Bytes) (s : State) :
    (txFrame P t p s).1.crc = s.crc := by
  rcases txFrame_cases P t p s with ⟨_, h⟩ | ⟨_, _, _, h⟩ | ⟨_, _, _, h⟩ <;> simp [h]

@[simp] theorem txFrame_sum (P : Params) (t : Byte) (p : Bytes) (s : State) :
    (txFrame P t p s).1.sum = s.sum := by
  rcases txFrame_cases P t p s with ⟨_, h⟩ | ⟨_, _, _, h⟩ | ⟨_, _, _, h⟩ <;> simp [h]

@[simp] theorem txFrame_protoVer (P : Params) (t : Byte) (p : Bytes) (s : State) :
    (txFrame P t p s).1.protoVer = s.protoVer := by
  rcases txFrame_cases P t p s with ⟨_, h⟩ | ⟨_, _, _, h⟩ | ⟨_, _, _, h⟩ <;> simp [h]

@[simp] theorem txFrame_applianceId (P : Params) (t : Byte) (p : Bytes) (s : State) :
    (txFrame P t p s).1.applianceId = s.applianceId := by
  rcases txFrame_cases P t p s with ⟨_, h⟩ | ⟨_, _, _, h⟩ | ⟨_, _, _, h⟩ <;> simp [h]

@[simp] theorem txFrame_returned (P : Params) (t : Byte) (p : Bytes) (s : State) :
    (txFrame P t p s).1.returned = s.returned := by
  rcases txFrame_cases P t p s with ⟨_, h⟩ | ⟨_, _, _, h⟩ | ⟨_, _, _, h⟩ <;> simp [h]

@[simp] theorem txFrame_pending (P : Params) (t : Byte) (p : Bytes) (s : State) :
    (txFrame P t p s).1.pending = s.pending := by
  rcases txFrame_cases P t p s with ⟨_, h⟩ | ⟨_, _, _, h⟩ | ⟨_, _, _, h⟩ <;> simp [h]

/-- What the parser can find in BUF: the six rows of the outcome table (43_frame_parser.md section 5). -/
theorem scan_cases (P : Params) (m : Memory) :
    (find m P.startByte = none ∧ scan P m = .wait .waitNoStart) ∨
    ∃ off, find m P.startByte = some off ∧
      ((m.length - off < 10 ∧ scan P m = .wait .waitHeader) ∨
      ∃ h, Header.read (m.drop off) = some h ∧
        ((h.length.toNat < 10 ∧ scan P m = .corrupt .badLength (candidate m off h.length.toNat)) ∨
        (10 ≤ h.length.toNat ∧ m.length ≤ off + h.length.toNat ∧ scan P m = .wait .waitBody) ∨
        ∃ c, 10 ≤ h.length.toNat ∧ m.read (off + h.length.toNat) = some c ∧
          ((checksum (covered m off h.length.toNat) ≠ c ∧
            scan P m = .corrupt .badSum (candidate m off h.length.toNat)) ∨
          (checksum (covered m off h.length.toNat) = c ∧
            scan P m = .valid h.type (frameFields m off h.length.toNat h) (off + h.length.toNat + 1))))) := by
  cases hf : find m P.startByte with
  | none => exact .inl ⟨rfl, by simp [scan, hf]⟩
  | some off =>
    refine .inr ⟨off, rfl, ?_⟩
    cases hh : Header.read (m.drop off) with
    | none => exact .inl ⟨by simpa using Header.read_eq_none.mp hh, by simp [scan, hf, hh]⟩
    | some h =>
      refine .inr ⟨h, rfl, ?_⟩
      by_cases hL : h.length.toNat < 10
      · exact .inl ⟨hL, by simp [scan, hf, hh, malformedLength, hL]⟩
      · cases hc : m.read (off + h.length.toNat) with
        | none =>
          exact .inr (.inl ⟨by omega, (Memory.read_eq_none _ _).mp hc,
            by simp [scan, hf, hh, malformedLength, hL, hc]⟩)
        | some c =>
          refine .inr (.inr ⟨c, by omega, rfl, ?_⟩)
          by_cases hs : checksum (covered m off h.length.toNat) = c
          · exact .inr ⟨hs, by simp [scan, hf, hh, malformedLength, hL, hc, hs]⟩
          · exact .inl ⟨hs, by simp [scan, hf, hh, malformedLength, hL, hc, hs]⟩

/-- A wait code is one of three. -/
theorem scan_wait {P : Params} {m : Memory} {r : ResultCode} (h : scan P m = .wait r) : r.isWait = true := by
  rcases scan_cases P m with ⟨_, e⟩ | ⟨_, _, ⟨_, e⟩ | ⟨_, _, ⟨_, e⟩ | ⟨_, _, e⟩ | ⟨_, _, _, ⟨_, e⟩ | ⟨_, e⟩⟩⟩⟩ <;>
    rw [e] at h <;> cases h <;> rfl

/-- The parser never reports an overrun. -/
theorem scan_corrupt {P : Params} {m : Memory} {c : Cause} {b : Bytes} (h : scan P m = .corrupt c b) :
    c ≠ .overrun := by
  rcases scan_cases P m with ⟨_, e⟩ | ⟨_, _, ⟨_, e⟩ | ⟨_, _, ⟨_, e⟩ | ⟨_, _, e⟩ | ⟨_, _, _, ⟨_, e⟩ | ⟨_, e⟩⟩⟩⟩ <;>
    rw [e] at h <;> cases h <;> decide

/-- A valid frame ends within BUF and has at least 11 bytes (30_encoding.md R62). -/
theorem scan_valid {P : Params} {m : Memory} {t : Byte} {w : FrameFields} {k : Nat}
    (h : scan P m = .valid t w k) : 11 ≤ k ∧ k ≤ m.length := by
  rcases scan_cases P m with ⟨_, e⟩ | ⟨_, _, ⟨_, e⟩ | ⟨_, _, ⟨_, e⟩ | ⟨_, _, e⟩ | ⟨c, hL, hc, ⟨_, e⟩ | ⟨_, e⟩⟩⟩⟩ <;>
    rw [e] at h <;> cases h
  refine ⟨by omega, ?_⟩
  by_contra hn
  rw [(Memory.read_eq_none _ _).mpr (by omega)] at hc
  cases hc

theorem parseStep_wait {P : Params} {s : State} {r : ResultCode} (h : scan P s.buf = .wait r) :
    parseStep P s = (s, r) := by rw [parseStep, h]

theorem parseStep_corrupt {P : Params} {s : State} {c : Cause} {b : Bytes} (h : scan P s.buf = .corrupt c b) :
    parseStep P s = raise c b s := by rw [parseStep, h]

theorem parseStep_valid {P : Params} {s : State} {t : Byte} {w : FrameFields} {k : Nat}
    (h : scan P s.buf = .valid t w k) :
    parseStep P s = ((acceptFrame P (classify P t) t w s).removeFront k, .gotFrame) := by rw [parseStep, h]

/-- What every pass of the parser keeps, the whole loop keeps. -/
theorem parseLoop_keeps (P : Params) (I : State → Prop) (hstep : ∀ s, I s → I (parseStep P s).1)
    (n : Nat) (s : State) (h : I s) : I (parseLoop P n s).1 := by
  induction n generalizing s with
  | zero => exact hstep s h
  | succ n ih =>
    have hs := hstep s h
    unfold parseLoop
    split
    · next s' he => rw [he] at hs; exact ih s' hs
    · exact hs

end Sys2Proof.Machine
end

