-- ==== Sys2Proof/Laws/Parse.lean ====
section
/-! SUPPORT. The effect of the parser's passes and of its loop, and of acceptance, in one place. -/

namespace Sys2Proof.Machine

open Config (Params)

/-- A state that differs from `s` only in buffer, version and events. -/
structure SameRest (s t : State) : Prop where
  crc : t.crc = s.crc
  sum : t.sum = s.sum
  applianceId : t.applianceId = s.applianceId
  returned : t.returned = s.returned
  pending : t.pending = s.pending

theorem SameRest.refl (s : State) : SameRest s s := ⟨rfl, rfl, rfl, rfl, rfl⟩

theorem SameRest.trans {s t u : State} (h : SameRest s t) (k : SameRest t u) : SameRest s u :=
  ⟨k.crc.trans h.crc, k.sum.trans h.sum, k.applianceId.trans h.applianceId, k.returned.trans h.returned,
    k.pending.trans h.pending⟩

/-- What a pass of the parser that accepts a frame does. -/
structure Accepts (s t : State) (k : Nat) (es : List Event) : Prop where
  rest : SameRest s t
  buf : t.buf = s.buf.drop k
  low : 11 ≤ k
  high : k ≤ s.buf.length
  out : t.out = s.out ++ es
  ver : t.protoVer = lastVersion s.protoVer es
  count : es.countP Event.isFrame = 1
  noLog : ∀ e ∈ es, e.isLog = false

/-- Acceptance touches the version and the events: one `EV_FRAME`, and nothing but sent frames after it. -/
theorem acceptFrame_effect (P : Params) (cls : FrameClass) (ty : Byte) (w : FrameFields) (s : State) :
    ∃ es, acceptFrame P cls ty w s = { s with protoVer := lastVersion s.protoVer es, out := s.out ++ es } ∧
      es.countP Event.isFrame = 1 ∧ ∀ e ∈ es, e.isLog = false := by
  obtain ⟨es, h, he⟩ := acceptFrame_frame P cls ty w s
  refine ⟨frameEvent cls ty w :: es, ?_, ?_, ?_⟩
  · rw [h]
    rcases he with rfl | ⟨b, _, rfl⟩ <;> rfl
  · rcases he with rfl | ⟨b, _, rfl⟩ <;> rfl
  · rcases he with rfl | ⟨b, _, rfl⟩ <;> simp [frameEvent, Event.isLog]

/-- A pass of the parser waits and changes nothing, or is a fault entry, or accepts a frame. -/
theorem parseStep_effect (P : Params) (s : State) :
    (∃ r, r.isWait = true ∧ parseStep P s = (s, r)) ∨
    (∃ c b, c ≠ .overrun ∧ parseStep P s = raise c b s) ∨
    (∃ t k es, parseStep P s = (t, .gotFrame) ∧ Accepts s t k es) := by
  cases h : scan P s.buf with
  | wait r => exact .inl ⟨r, scan_wait h, parseStep_wait h⟩
  | corrupt c b => exact .inr (.inl ⟨c, b, scan_corrupt h, parseStep_corrupt h⟩)
  | valid ty w k =>
    obtain ⟨es, ha, hcount, hlog⟩ := acceptFrame_effect P (classify P ty) ty w s
    have e := parseStep_valid h
    rw [ha] at e
    exact .inr (.inr ⟨_, k, es, e,
      { rest := ⟨rfl, rfl, rfl, rfl, rfl⟩, buf := rfl, low := (scan_valid h).1, high := (scan_valid h).2, out := rfl,
        ver := rfl, count := hcount, noLog := hlog }⟩)

/-- What PARSE.RUN has done before its last pass: it has accepted some frames. -/
structure AcceptsMany (s t : State) (k : Nat) (es : List Event) : Prop where
  rest : SameRest s t
  buf : t.buf = s.buf.drop k
  low : 11 * es.countP Event.isFrame ≤ k
  high : k ≤ s.buf.length
  out : t.out = s.out ++ es
  ver : t.protoVer = lastVersion s.protoVer es
  noLog : ∀ e ∈ es, e.isLog = false

theorem AcceptsMany.zero (s : State) : AcceptsMany s s 0 [] where
  rest := SameRest.refl s
  buf := rfl
  low := Nat.le_refl 0
  high := Nat.zero_le _
  out := (List.append_nil _).symm
  ver := rfl
  noLog := by simp

theorem AcceptsMany.cons {s t u : State} {k m : Nat} {es fs : List Event} (h : Accepts s t k es)
    (g : AcceptsMany t u m fs) : AcceptsMany s u (k + m) (es ++ fs) where
  rest := h.rest.trans g.rest
  buf := by rw [g.buf, h.buf, List.drop_drop]
  low := by
    have := g.low
    have := h.low
    rw [List.countP_append, h.count]
    omega
  high := by
    have := g.high
    have hh := h.high
    rw [h.buf, List.length_drop] at this
    omega
  out := by rw [g.out, h.out, List.append_assoc]
  ver := by
    rw [g.ver, h.ver]
    simp [lastVersion, List.foldl_append]
  noLog := fun e he => (List.mem_append.mp he).elim (h.noLog e) (g.noLog e)

/-- PARSE.RUN accepts some frames and then ends with a wait or a fault entry (43_frame_parser.md R119). -/
theorem parseLoop_effect (P : Params) (n : Nat) (s : State) (hn : s.buf.length ≤ n) :
    ∃ t k es, AcceptsMany s t k es ∧ parseLoop P n s = parseStep P t ∧
      ((∃ r, r.isWait = true ∧ parseStep P t = (t, r)) ∨ (∃ c b, c ≠ .overrun ∧ parseStep P t = raise c b t)) := by
  induction n generalizing s with
  | zero =>
    refine ⟨s, 0, [], .zero s, rfl, ?_⟩
    rcases parseStep_effect P s with h | h | ⟨t, k, es, _, h⟩
    · exact .inl h
    · exact .inr h
    · have := h.low
      have := h.high
      omega
  | succ n ih =>
    rcases parseStep_effect P s with h | h | ⟨t, k, es, he, h⟩
    · refine ⟨s, 0, [], .zero s, ?_, .inl h⟩
      obtain ⟨r, hr, he⟩ := h
      rw [parseLoop, he]
      cases r <;> first | rfl | cases hr
    · refine ⟨s, 0, [], .zero s, ?_, .inr h⟩
      obtain ⟨c, b, _, he⟩ := h
      rw [parseLoop, he, raise_eq]
      cases c <;> rfl
    · have hl := h.low
      have hh := h.high
      have hb := congrArg List.length h.buf
      rw [List.length_drop] at hb
      obtain ⟨u, m, fs, g, e, f⟩ := ih t (by omega)
      exact ⟨u, k + m, es ++ fs, .cons h g, by rw [parseLoop, he]; exact e, f⟩

/-- PARSE.RUN, with its own fuel. -/
theorem parseRun_effect (P : Params) (s : State) :
    ∃ t k es, AcceptsMany s t k es ∧ parseRun P s = parseStep P t ∧
      ((∃ r, r.isWait = true ∧ parseStep P t = (t, r)) ∨ (∃ c b, c ≠ .overrun ∧ parseStep P t = raise c b t)) :=
  parseLoop_effect P s.buf.length s (Nat.le_refl _)

end Sys2Proof.Machine
end

