-- ==== Sys2Proof/Laws/PerInstr.lean ====
section
/-! SUPPORT. Laws stated for every instruction, one lemma per constructor. -/

namespace Sys2Proof.Laws.HasEncoding

open Config (Params)

/-- An instruction has an encoding exactly when its row is not an internal one (30_encoding.md R69: RX.FLUSH and
TX.NQREPLY have none). -/
def Statement (i : Instr) : Prop := ∀ P : Params, (encode P i).isSome = true ↔ i.form ≠ .internal

theorem reset : Statement .reset := fun _ => by simp [encode, Instr.form]

theorem cfgId (id : Byte) : Statement (.cfgId id) := fun _ => by simp [encode, Instr.form]

theorem crcClr : Statement .crcClr := fun _ => by simp [encode, Instr.form]

theorem crcUpd (b : Byte) : Statement (.crcUpd b) := fun _ => by simp [encode, Instr.form]

theorem crcRd : Statement .crcRd := fun _ => by simp [encode, Instr.form]

theorem sumClr : Statement .sumClr := fun _ => by simp [encode, Instr.form]

theorem sumUpd (b : Byte) : Statement (.sumUpd b) := fun _ => by simp [encode, Instr.form]

theorem sumRd : Statement .sumRd := fun _ => by simp [encode, Instr.form]

theorem sumChk (t : Byte) : Statement (.sumChk t) := fun _ => by simp [encode, Instr.form]

theorem rxAppend (chunk : Bytes) : Statement (.rxAppend chunk) := fun _ => by simp [encode, Instr.form]

theorem parseStep : Statement .parseStep := fun _ => by simp [encode, Instr.form]

theorem parseRun : Statement .parseRun := fun _ => by simp [encode, Instr.form]

theorem txFrame (type : Byte) (payload : Bytes) : Statement (.txFrame type payload) := fun _ => by simp [encode, Instr.form]

theorem txBody (type : Byte) (body : Bytes) : Statement (.txBody type body) := fun _ => by simp [encode, Instr.form]

theorem txProbe : Statement .txProbe := fun _ => by simp [encode, Instr.form]

theorem rxFlush : Statement .rxFlush := fun _ => by simp [encode, Instr.form]

theorem txNqReply : Statement .txNqReply := fun _ => by simp [encode, Instr.form]

theorem badOp (op : Byte) : Statement (.badOp op) := fun _ => by simp [encode, Instr.form]

theorem frameAny (type : Byte) (w : FrameFields) : Statement (.frameAny type w) := fun _ => by simp [encode, Instr.form]

theorem frameNetq (w : FrameFields) : Statement (.frameNetq w) := fun _ => by simp [encode, Instr.form]

theorem frameSet (w : FrameFields) : Statement (.frameSet w) := fun _ => by simp [encode, Instr.form]

theorem frameGet (w : FrameFields) : Statement (.frameGet w) := fun _ => by simp [encode, Instr.form]

theorem frameNotify (w : FrameFields) : Statement (.frameNotify w) := fun _ => by simp [encode, Instr.form]

theorem frameOther (type : Byte) (w : FrameFields) : Statement (.frameOther type w) := fun _ => by simp [encode, Instr.form]

end Sys2Proof.Laws.HasEncoding
end

