-- ==== Sys2Proof/Machine/Trace.lean ====
section
/-! DEFINITION. The trace syntax of 30_encoding.md R70: how a host program is written down. Nothing in the
machine reads it. -/

namespace Sys2Proof.Machine

/-- One hexadecimal digit. -/
def hexDigit (n : Nat) : String :=
  (["0", "1", "2", "3", "4", "5", "6", "7", "8", "9", "A", "B", "C", "D", "E", "F"][n]?).getD ""

/-- A byte as two hexadecimal digits. -/
def hexByte (b : Byte) : String := hexDigit (b.toNat / 16) ++ hexDigit (b.toNat % 16)

/-- A byte sequence: pairs separated by spaces, `-` when empty. -/
def hexSeq : Bytes → String
  | [] => "-"
  | [b] => hexByte b
  | b :: s => hexByte b ++ " " ++ hexSeq s

/-- The trace line of an operation: mnemonic, then operands. The internal micro-operations, an unlisted `op`
and the wire frames are no operations of a host program and have none. -/
def traceLine : Instr → Option String
  | .reset => some "RESET"
  | .cfgId id => some ("CFG.ID " ++ hexByte id)
  | .crcClr => some "CRC.CLR"
  | .crcUpd b => some ("CRC.UPD " ++ hexByte b)
  | .crcRd => some "CRC.RD"
  | .sumClr => some "SUM.CLR"
  | .sumUpd b => some ("SUM.UPD " ++ hexByte b)
  | .sumRd => some "SUM.RD"
  | .sumChk t => some ("SUM.CHK " ++ hexByte t)
  | .rxAppend chunk => some ("RX.APPEND " ++ hexSeq chunk)
  | .parseStep => some "PARSE.STEP"
  | .parseRun => some "PARSE.RUN"
  | .txFrame type payload => some ("TX.FRAME " ++ hexByte type ++ " " ++ hexSeq payload)
  | .txBody type body => some ("TX.BODY " ++ hexByte type ++ " " ++ hexSeq body)
  | .txProbe => some "TX.PROBE"
  | .rxFlush => none
  | .txNqReply => none
  | .badOp _ => none
  | .frameAny _ _ => none
  | .frameNetq _ => none
  | .frameSet _ => none
  | .frameGet _ => none
  | .frameNotify _ => none
  | .frameOther _ _ => none

/-- A result code as 10_state.md R29 spells it; a byte result is its two digits. -/
def ResultCode.text : ResultCode → String
  | .done => "DONE"
  | .byte b => hexByte b
  | .refusedNoValue => "REFUSED_NO_VALUE"
  | .isMatch => "MATCH"
  | .mismatch => "MISMATCH"
  | .ok => "OK"
  | .overrun => "OVERRUN"
  | .waitNoStart => "WAIT_NO_START"
  | .waitHeader => "WAIT_HEADER"
  | .waitBody => "WAIT_BODY"
  | .corruptLength => "CORRUPT_LENGTH"
  | .corruptSum => "CORRUPT_SUM"
  | .gotFrame => "FRAME"
  | .sent => "SENT"
  | .refusedNoId => "REFUSED_NO_ID"
  | .refusedTooLong => "REFUSED_TOO_LONG"
  | .refusedBadOp => "REFUSED_BAD_OP"

/-- A whole trace line with the result the rules give. -/
def traceWithResult (i : Instr) (r : ResultCode) : Option String :=
  (traceLine i).map (fun line => line ++ " ; => " ++ r.text)

end Sys2Proof.Machine
end

