-- ==== Sys2Proof/Tests/Slice0.lean ====
section
/-! SUPPORT. Tests and witnesses. The expected values are those of spec/95_test_vectors.md (the vector is named at
each test), computed there from the rules at the candidate parameters of spec/93_implementation_defined.md. -/

namespace Sys2Proof.Tests

open Sys2Proof.Machine
open Sys2Proof.Config (mfc Params)

/-! ### The candidate instance of the vectors (93_implementation_defined.md G1 to G3, G6) -/

/-- One round of the loop that generates the candidate table (G3). -/
def tableRound (c : Byte) : Byte := if c.getLsbD 0 then (c >>> 1) ^^^ 0x8C else c >>> 1

/-- The candidate parameters. They are test data: the machine's own parameters stay unknown. -/
def cand : Params where
  startByte := 0xAA
  crcTable := fun i => (List.range 8).foldl (fun c _ => tableRound c) i
  typeCode := Equiv.swap 0x00 0x63 * Equiv.swap 0x01 0x02 * Equiv.swap 0x02 0x03 * Equiv.swap 0x03 0x04
  nqReplyBody := Vector.replicate 20 0x00
  protoVerReset := 0x00

/-- After `RESET; CFG.ID E1`. -/
def ready : State where
  buf := []
  crc := none
  sum := none
  protoVer := 0x00
  applianceId := some 0xE1
  out := []
  returned := []
  pending := []

def frameA : Bytes := [0xAA, 0x0B, 0xE1, 0, 0, 0, 0, 0, 0x05, 0x04, 0x7F, 0x8C]
def frameB : Bytes := [0xAA, 0x0B, 0xE1, 0, 0, 0, 0, 0, 0x05, 0x04, 0x7E, 0x8C]
def frameC : Bytes := [0xAA, 0x0C, 0xE1, 0, 0, 0, 0, 0, 0x07, 0x03, 0x01, 0x02, 0x06]
def frameQ : Bytes := [0xAA, 0x0A, 0xE1, 0, 0, 0, 0, 0, 0x08, 0x63, 0xAA]
def frameX : Bytes := [0xAA, 0x0B, 0x55, 0x01, 0x02, 0x03, 0x04, 0x05, 0x09, 0x77, 0x10, 0x01]

def fieldsA : FrameFields := ⟨0xE1, ⟨0, 0, 0, 0, 0⟩, 0x05, [0x7F]⟩
def fieldsQ : FrameFields := ⟨0xE1, ⟨0, 0, 0, 0, 0⟩, 0x08, []⟩
def fieldsX : FrameFields := ⟨0x55, ⟨0x01, 0x02, 0x03, 0x04, 0x05⟩, 0x09, [0x10]⟩

theorem test_candidate_types : cand.ftNetworkQuery = 0x63 ∧ cand.ftSet = 0x02 ∧ cand.ftGet = 0x03 ∧
    cand.ftNotify = 0x04 := by decide

/-! ### Well-formedness: what the checks refuse -/

theorem test_wf_badOp_refuses_listed_op : (Instr.badOp 0x30).wf cand = false := by decide

theorem test_wf_badOp_accepts_unlisted_op : (Instr.badOp 0x02).wf cand = true := by decide

theorem test_wf_frame_refuses_246_bytes :
    (Instr.frameAny 0x04 (FrameFields.mk 0xE1 ⟨0, 0, 0, 0, 0⟩ 0x05 (List.replicate 246 0x5A))).wf cand = false := by
  decide +kernel

theorem test_wf_frameOther_refuses_named_type : (Instr.frameOther 0x63 fieldsA).wf cand = false := by decide

/-! ### Decoding: each word written from the encoding table of 30_encoding.md R69, bit by bit -/

theorem test_decode_reset : decodeTableWord 8 0b00000000 = some .reset := by decide
theorem test_decode_cfgId : decodeTableWord 16 0b11100001_00000001 = some (.cfgId 0xE1) := by decide
theorem test_decode_crcClr : decodeTableWord 8 0b00010000 = some .crcClr := by decide
theorem test_decode_crcUpd : decodeTableWord 16 0b10000010_00010001 = some (.crcUpd 0x82) := by decide
theorem test_decode_crcRd : decodeTableWord 8 0b00010010 = some .crcRd := by decide
theorem test_decode_sumClr : decodeTableWord 8 0b00100000 = some .sumClr := by decide
theorem test_decode_sumUpd : decodeTableWord 16 0b00001011_00100001 = some (.sumUpd 0x0B) := by decide
theorem test_decode_sumRd : decodeTableWord 8 0b00100010 = some .sumRd := by decide
theorem test_decode_sumChk : decodeTableWord 16 0b10001100_00100011 = some (.sumChk 0x8C) := by decide
theorem test_decode_rxAppend : decodeTableWord 24 0b00000010_00000001_00110000 = some (.rxAppend [0x01, 0x02]) := by
  decide
theorem test_decode_parseStep : decodeTableWord 8 0b01000000 = some .parseStep := by decide
theorem test_decode_parseRun : decodeTableWord 8 0b01000001 = some .parseRun := by decide
theorem test_decode_txFrame : decodeTableWord 24 0b01111111_00000100_01010000 = some (.txFrame 0x04 [0x7F]) := by
  decide
theorem test_decode_txBody : decodeTableWord 24 0b01111111_00000010_01010001 = some (.txBody 0x02 [0x7F]) := by decide
theorem test_decode_txProbe : decodeTableWord 8 0b01010010 = some .txProbe := by decide
theorem test_decode_badOp : decodeTableWord 8 0b00000010 = some (.badOp 0x02) := by decide
theorem test_decode_short_word : decodeTableWord 8 0b01010000 = some (.txFrame 0x00 []) := by decide

theorem test_decode_surplus_operand : decodeCommand [0x10, 0x00] = .error .surplusOperand := rfl

/-- FA, FQ, FX, FC and F0 of the vectors, and FB, whose checksum is wrong. -/
theorem test_decode_frames :
    decodeFrame cand frameA = .ok (.frameNotify fieldsA) ∧ decodeFrame cand frameQ = .ok (.frameNetq fieldsQ) ∧
    decodeFrame cand frameX = .ok (.frameOther 0x77 fieldsX) ∧
    decodeFrame cand frameC = .ok (.frameGet ⟨0xE1, ⟨0, 0, 0, 0, 0⟩, 0x07, [0x01, 0x02]⟩) ∧
    decodeFrame cand [0xAA, 0x0A, 0, 0, 0, 0, 0, 0, 0, 0x02, 0xF4] =
      .ok (.frameSet ⟨0x00, ⟨0, 0, 0, 0, 0⟩, 0x00, []⟩) ∧
    decodeLayout cand frameA = .ok (.frameAny 0x04 fieldsA) ∧ decodeFrame cand frameB = .error .badSum :=
  ⟨rfl, rfl, rfl, rfl, rfl, rfl, rfl⟩

/-! ### One step of each instruction -/

/-- Z2, up to the reset value of the version, which is the instance's. -/
theorem test_reset : resetOp cand
      { ready with buf := frameA.take 6, protoVer := 0x05, crc := some 0x5E, sum := some 0xF5,
                   out := [.log .badLength [0xAA]] } =
    ({ ready with applianceId := none, out := [.log .badLength [0xAA]] }, .done) := by decide

/-- Z4. -/
theorem test_cfgId_again : cfgId 0x00 ready = ({ ready with applianceId := some 0x00 }, .done) := by decide

theorem test_crcClr : crcClear { ready with crc := some 0x24 } = ({ ready with crc := some 0x00 }, .done) := by decide

/-- The trace of section 2.1: `5E`, then `9A`. -/
theorem test_crcUpd : crcUpdate cand 0x01 { ready with crc := some 0x5E } =
    ({ ready with crc := some 0x9A }, .done) := by decide

/-- Z6. -/
theorem test_crcUpd_none : crcUpdate cand 0x01 ready = (ready, .refusedNoValue) := by decide

theorem test_crcRd : crcRead { ready with crc := some 0x9A } =
    ({ ready with crc := some 0x9A }, .byte 0x9A) := by decide

/-- K12, K13, K14, K17, K21. -/
theorem test_crc8 : crc8 cand [0xFF] = 0x35 ∧ crc8 cand [0x01, 0x01] = 0x9A ∧
    crc8 cand [0x31, 0x32, 0x33, 0x34, 0x35, 0x36, 0x37, 0x38, 0x39] = 0xA1 ∧ crc8 cand Config.probeBody = 0xC9 ∧
    crc8 cand (Config.actionBody (.heaterTarget 200)) = 0xBB := by decide +kernel

theorem test_sumClr : sumClear ready = ({ ready with sum := some 0x00 }, .done) := by decide

/-- The trace of section 2.2: from 0 down by `0B` is `F5`. -/
theorem test_sumUpd_wraps : sumUpdate 0x0B { ready with sum := some 0x00 } =
    ({ ready with sum := some 0xF5 }, .done) := by decide

/-- Z6. -/
theorem test_sumRd_none : sumRead ready = (ready, .refusedNoValue) := by decide

theorem test_sumRd : sumRead { ready with sum := some 0x8C } =
    ({ ready with sum := some 0x8C }, .byte 0x8C) := by decide

theorem test_sumChk : (sumCheck 0x8C { ready with sum := some 0x8C }).2 = .isMatch ∧
    (sumCheck 0x8D { ready with sum := some 0x8C }).2 = .mismatch := by decide

/-- S6, S7, S13, S14, S15, S18. -/
theorem test_checksum : checksum [0x01, 0x02, 0x03] = 0xFA ∧ checksum (slice frameA 1 11) = 0x8C ∧
    validate (frameA.drop 1) = some true ∧ validate (frameB.drop 1) = some false ∧
    validate [0x0B, 0x61, 0, 0, 0, 0, 0, 0x05, 0x04, 0xFF, 0x8C] = some true ∧ validate [0x00] = some true := by
  decide

/-- A2. -/
theorem test_rxAppend : rxAppend [0x03] { ready with buf := [0x01, 0x02] } =
    ({ ready with buf := [0x01, 0x02, 0x03] }, .ok) := by decide

/-- A4 and A3: 1025 bytes overrun, 1024 do not. -/
theorem test_rxAppend_ceiling : (rxAppend [0x00] { ready with buf := zeros 1024 }).2 = .overrun ∧
    (rxAppend (zeros 1024) ready).2 = .ok := by
  decide +kernel

theorem test_rxFlush : flush { ready with buf := frameA.take 6 } = ready := by decide

/-- F1. -/
theorem test_parseStep_frame : parseStep cand { ready with buf := frameA } =
    ({ ready with protoVer := 0x05, out := [.frame 0xE1 ⟨0, 0, 0, 0, 0⟩ 0x05 0x04 [0x7F] .telemetry] },
      .gotFrame) := by decide

/-- F13. -/
theorem test_parseStep_badLength :
    parseStep cand { ready with buf := [0xAA, 0x09, 0x01, 0x02, 0x03, 0x04, 0x05, 0x06, 0x07, 0x08] } =
    ({ ready with out := [.log .badLength [0xAA, 0x09, 0x01, 0x02, 0x03, 0x04, 0x05, 0x06, 0x07, 0x08]] },
      .corruptLength) := by decide

/-- F2. -/
theorem test_parseRun_two_frames : parseRun cand { ready with buf := frameA ++ frameC ++ [0xAA, 0x0C] } =
    ({ ready with buf := [0xAA, 0x0C], protoVer := 0x07,
                  out := [.frame 0xE1 ⟨0, 0, 0, 0, 0⟩ 0x05 0x04 [0x7F] .telemetry,
                    .frame 0xE1 ⟨0, 0, 0, 0, 0⟩ 0x07 0x03 [0x01, 0x02] .telemetry] }, .waitHeader) := by decide

/-- F3. -/
theorem test_parseRun_badSum : parseRun cand { ready with buf := frameB ++ frameC } =
    ({ ready with out := [.log .badSum frameB] }, .corruptSum) := by decide

/-- B1. -/
theorem test_txFrame : txFrame cand 0x04 [0x7F] { ready with protoVer := 0x05 } =
    ({ ready with protoVer := 0x05, out := [.tx frameA] }, .sent) := by decide

/-- B8 and B11. -/
theorem test_txFrame_refused : (txFrame cand 0x04 (List.replicate 246 0x5A) ready).2 = .refusedTooLong ∧
    txFrame cand 0x04 [0x7F] { ready with applianceId := none } =
      ({ ready with applianceId := none }, .refusedNoId) := by
  decide +kernel

/-- B4: the frame of heater target 80. -/
theorem test_txBody : txBody cand 0x02 (Config.actionBody (.heaterTarget 200)) { ready with protoVer := 0x08 } =
    ({ ready with
        protoVer := 0x08
        out := [.tx ([0xAA, 0x29, 0xE1, 0, 0, 0, 0, 0, 0x08, 0x02, 0x04, 0x13, 0x50] ++ zeros 27 ++ [0xBB, 0xCA])] },
      .sent) := by decide +kernel

/-- B2. -/
theorem test_txProbe : txProbe cand { ready with protoVer := 0x08 } =
    ({ ready with
        protoVer := 0x08
        out := [.tx ([0xAA, 0x29, 0xE1, 0, 0, 0, 0, 0, 0x08, 0x03, 0x01, 0x01] ++ zeros 28 ++ [0xC9, 0x20])] },
      .sent) := by decide +kernel

/-- The reply of F8. -/
theorem test_txNqReply : nqReply cand { ready with protoVer := 0x08 } =
    ({ ready with
        protoVer := 0x08
        out := [.tx ([0xAA, 0x1F, 0xE1, 0, 0, 0, 0, 0, 0x08, 0x63] ++ zeros 20 ++ [0x00, 0x95])] }, .sent) := by
  decide +kernel

/-- Z5. -/
theorem test_badOp : exec (.badOp 0x02) ready = .next { ready with returned := [.refusedBadOp] } := rfl

/-- F8 without the removal: the version of the query is in the reply. -/
theorem test_frameNetq : acceptFrame cand .netq 0x63 fieldsQ ready =
    { ready with
      protoVer := 0x08
      out := [.frame 0xE1 ⟨0, 0, 0, 0, 0⟩ 0x08 0x63 [] .netq,
        .tx ([0xAA, 0x1F, 0xE1, 0, 0, 0, 0, 0, 0x08, 0x63] ++ zeros 20 ++ [0x00, 0x95])] } := by decide +kernel

/-- F10: without an identifier the reply is swallowed. -/
theorem test_frameNetq_no_id : (acceptFrame cand .netq 0x63 fieldsQ { ready with applianceId := none }).out =
    [.frame 0xE1 ⟨0, 0, 0, 0, 0⟩ 0x08 0x63 [] .netq] := by decide

/-- F5: FX, of another appliance and an unnamed type. -/
theorem test_frameOther : exec (.frameOther 0x77 fieldsX) ready = .next
    { ready with
      protoVer := 0x09
      out := [.frame 0x55 ⟨0x01, 0x02, 0x03, 0x04, 0x05⟩ 0x09 0x77 [0x10] .other] } := rfl

/-- F1's event, for the three telemetry rows and the layout row. -/
theorem test_frameSet : exec (.frameSet fieldsA) ready = .next
    { ready with
      protoVer := 0x05
      out := [.frame 0xE1 ⟨0, 0, 0, 0, 0⟩ 0x05 mfc.ftSet [0x7F] .telemetry] } := rfl

theorem test_frameGet : exec (.frameGet fieldsA) ready = .next
    { ready with
      protoVer := 0x05
      out := [.frame 0xE1 ⟨0, 0, 0, 0, 0⟩ 0x05 mfc.ftGet [0x7F] .telemetry] } := rfl

theorem test_frameNotify : exec (.frameNotify fieldsA) ready = .next
    { ready with
      protoVer := 0x05
      out := [.frame 0xE1 ⟨0, 0, 0, 0, 0⟩ 0x05 mfc.ftNotify [0x7F] .telemetry] } := rfl

theorem test_frameAny : acceptFrame cand (classify cand 0x04) 0x04 fieldsA ready =
    { ready with
      protoVer := 0x05
      out := [.frame 0xE1 ⟨0, 0, 0, 0, 0⟩ 0x05 0x04 [0x7F] .telemetry] } := by decide

/-- The trace syntax of 30_encoding.md R70. -/
theorem test_trace : traceWithResult (.txFrame 0x04 [0x7F, 0xE1]) .sent = some "TX.FRAME 04 7F E1 ; => SENT" ∧
    traceLine (.rxAppend []) = some "RX.APPEND -" := by decide +kernel

/-- A word placed by `withFetchWord` is the next instruction: CRC.CLR right after reset. -/
theorem test_step_after_reset : step (State.reset.withFetchWord 8 0x10) =
    .next { State.reset with crc := some 0x00, returned := [.done] } := rfl

/-! ### Witnesses: for each statement with hypotheses, concrete values that meet them all

`small` is the frame FQ with the machine's own sentinel, `bad` a candidate with length byte 0, `other` a byte that is
not the sentinel. -/

def small : Bytes := [mfc.startByte, 0x0A, 0xE1, 0, 0, 0, 0, 0, 0x08, 0x63, 0xAA]

def bad : State := { ready with buf := mfc.startByte :: zeros 9 }

def badAfter : State := { ready with out := [.log .badLength [mfc.startByte]], returned := [.corruptLength] }

def other : Byte := ~~~mfc.startByte

theorem other_ne : other ≠ mfc.startByte := by
  have h : ∀ b : Byte, ~~~b ≠ b := by decide
  exact h mfc.startByte

theorem find_head (m : Bytes) : find (mfc.startByte :: m) mfc.startByte = some 0 :=
  find_append_cons (g := []) (by simp)

theorem zeros_length (n : Nat) : (zeros n).length = n := List.length_replicate

/-- The state after PARSE.STEP on `small`, before its code is returned. -/
def smallAfter (s : State) : State := (acceptFrame mfc (classify mfc 0x63) 0x63 fieldsQ s).removeFront 11

theorem scan_small : scan mfc small = .valid 0x63 fieldsQ 11 := by
  simp [scan, small, find_head, malformedLength, Memory.read, covered, slice, frameFields, checksum, checksumFrom,
    fieldsQ, Config.headerSize]

theorem step_small (s : State) (h : s.buf = small) : parseStep mfc s = (smallAfter s, .gotFrame) :=
  parseStep_valid (by rw [h, scan_small])

theorem scan_small_head : scan mfc (small.take 5) = .wait .waitHeader := by
  simp [scan, small, find_head, Header.read]

theorem scan_bad : scan mfc (mfc.startByte :: zeros 9) = .corrupt .badLength [mfc.startByte] := by
  simp [scan, zeros, find_head, List.replicate, malformedLength, candidate, slice, Config.headerSize]

theorem exec_bad : exec .parseStep bad = .next badAfter := by
  have h : parseStep mfc bad = _ := parseStep_corrupt scan_bad
  simp only [exec, execParseStep, h]
  rfl

theorem run_small (s : State) (h : s.buf = small) :
    exec .parseRun s = .next ((smallAfter s).ret .waitNoStart) := by
  have hb : (smallAfter s).buf = [] := by simp [smallAfter, h, small]
  have hw : parseStep mfc (smallAfter s) = (smallAfter s, .waitNoStart) :=
    parseStep_wait (by rw [hb]; rfl)
  have hl : s.buf.length = 11 := by rw [h]; rfl
  simp [exec, execParseRun, parseRun, hl, parseLoop, step_small s h, hw]

theorem witness_OpBytesDecode : ∀ op ∈ ([0x02, 0x0F, 0x13, 0x53, 0xFF] : Bytes),
    op ∉ ([0x00, 0x01, 0x10, 0x11, 0x12, 0x20, 0x21, 0x22, 0x23, 0x30, 0x40, 0x41, 0x50, 0x51, 0x52] : Bytes) := by
  decide

theorem witness_StepRunsDecodedCommand_runs : ∃ (s : State) (packet : Bytes) (rest : List Bytes) (i : Instr),
    s.pending = packet :: rest ∧ decodeCommand packet = .ok i :=
  ⟨{ ready with pending := [[0x11, 0xFF], [0x12]] }, [0x11, 0xFF], [[0x12]], .crcUpd 0xFF, rfl, rfl⟩

theorem witness_StepRunsDecodedCommand_idle : ∃ s : State, s.pending = [] := ⟨ready, rfl⟩

theorem witness_StepRunsDecodedCommand_refused : ∃ (s : State) (packet : Bytes) (rest : List Bytes)
    (r : CommandReject), s.pending = packet :: rest ∧ decodeCommand packet = .error r :=
  ⟨{ ready with pending := [[]] }, [], [], .noOpByte, rfl, rfl⟩

theorem witness_CommandEncodeDecode : ∃ i j : Instr, i.wf mfc = true ∧ i.form = .op ∧ j.wf mfc = true ∧ j.form = .op :=
  ⟨.badOp 0xFF, .txFrame 0xFF (zeros 300), rfl, rfl, rfl, rfl⟩

theorem witness_CommandBytesAreCanonical : ∃ (b : Bytes) (i : Instr),
    decodeCommand b = .ok i ∧ ∀ op, i ≠ .badOp op :=
  ⟨[0x50, 0xFF], .txFrame 0xFF [], rfl, fun _ h => nomatch h⟩

theorem witness_WireEncodeDecode_layout : ∃ v w : FrameFields, v.wf = true ∧ v.payload = [] ∧ w.wf = true ∧
    w.payload.length = 245 :=
  ⟨fieldsQ, { fieldsQ with payload := zeros 245 }, by decide, rfl, by decide +kernel, by decide +kernel⟩

theorem witness_WireEncodeDecode_classes : ∃ i j : Instr,
    (i.wf mfc = true ∧ i.form = .wire ∧ ∀ t w, i ≠ .frameAny t w) ∧
    (j.wf mfc = true ∧ j.form = .wire ∧ ∀ t w, j ≠ .frameAny t w) := by
  refine ⟨.frameNetq fieldsQ, .frameOther (mfc.typeCode 4) fieldsX, ⟨rfl, rfl, fun _ _ h => nomatch h⟩,
    ⟨?_, rfl, fun _ _ h => nomatch h⟩⟩
  simp [Instr.wf, FrameFields.wf, fieldsX, classify, Config.Params.ftNetworkQuery, Config.Params.ftSet,
    Config.Params.ftGet, Config.Params.ftNotify]

theorem witness_WireBytesAreCanonical : ∃ (f : Bytes) (t : Byte) (w : FrameFields),
    decodeLayout mfc f = .ok (.frameAny t w) := by
  refine ⟨small, 0x63, fieldsQ, ?_⟩
  simp [decodeLayout, readFrame, small, slice, checksum, checksumFrom, fieldsQ, Config.headerSize]

theorem witness_CrcOperations : ∃ (s : State) (c : Byte), s.crc = some c :=
  ⟨{ ready with crc := some 0xFF }, 0xFF, rfl⟩

theorem witness_CrcRefusesNone : ∃ s : State, s.crc = none := ⟨ready, rfl⟩

theorem witness_CrcStreamingEqualsFunction : ∃ ops : List Instr, crcBytes ops = [0x01, 0xFF] ∧
    ∀ i ∈ ops, i ≠ .reset ∧ i ≠ .crcClr :=
  ⟨[.crcUpd 0x01, .sumClr, .txProbe, .parseRun, .crcUpd 0xFF, .crcRd], rfl, by decide⟩

theorem witness_SumOperations_value : ∃ (s : State) (a : Byte), s.sum = some a :=
  ⟨{ ready with sum := some 0x00 }, 0x00, rfl⟩

theorem witness_SumOperations_mismatch : ∃ (s : State) (a t : Byte), s.sum = some a ∧ t ≠ a :=
  ⟨{ ready with sum := some 0x8C }, 0x8C, 0x8D, rfl, by decide⟩

theorem witness_SumRefusesNone : ∃ s : State, s.sum = none := ⟨ready, rfl⟩

theorem witness_ChecksumIsComplementOfSum : ∃ s t : Bytes, s.Perm t ∧ s ≠ t :=
  ⟨[0x05, 0x04], [0x04, 0x05], by decide, by decide⟩

theorem witness_ChecksumLaws : ∃ (s : Bytes) (c : Byte), validate (s ++ [c]) = some true :=
  ⟨[0x01], 0xFF, by decide⟩

theorem witness_SingleBitFlipDetected : ∃ k : Nat, k < 8 := ⟨7, by decide⟩

theorem witness_SumStreamingEqualsFunction : ∃ ops : List Instr, sumBytes ops = [0x0B, 0xE1] ∧
    ∀ i ∈ ops, i ≠ .reset ∧ i ≠ .sumClr :=
  ⟨[.sumUpd 0x0B, .crcClr, .sumRd, .txProbe, .sumUpd 0xE1], rfl, by decide⟩

theorem witness_ReceiveAppend : ∃ (s : State) (c d : Bytes), s.buf.length + c.length = 1024 ∧
    s.buf.length + d.length = 1025 :=
  ⟨{ ready with buf := zeros 1000 }, zeros 24, zeros 25, by decide +kernel, by decide +kernel⟩

theorem witness_FlushEmptiesBuffer : ∃ (i : Instr) (s t : State), exec i s = .next t ∧ s.buf ≠ [] ∧ t.buf = [] :=
  ⟨.rxFlush, { ready with buf := [0x11] }, ready, rfl, by decide, rfl⟩

theorem witness_ParserWaitsForSentinel : ∃ s : State, s.buf ≠ [] ∧ NoSentinel s.buf :=
  ⟨{ ready with buf := [other] }, by simp, by simp [NoSentinel, other_ne]⟩

theorem witness_ParserWaitsForHeader_nine : ∃ s : State, FirstSentinel s.buf 0 ∧ s.buf.length - 0 = 9 :=
  ⟨{ ready with buf := mfc.startByte :: zeros 8 }, ⟨rfl, fun _ h => absurd h (by omega)⟩, rfl⟩

theorem witness_ParserWaitsForHeader_one : ∃ s : State, FirstSentinel s.buf 1 ∧ s.buf.length - 1 = 1 := by
  refine ⟨{ ready with buf := [other, mfc.startByte] }, ⟨rfl, fun j h => ?_⟩, rfl⟩
  obtain rfl : j = 0 := by omega
  exact fun h => other_ne (Option.some.inj h)

/-- Length bytes 0 and 9, with exactly ten bytes present. -/
theorem witness_ParserRejectsShortLength : ∀ l ∈ ([0x00, 0x09] : Bytes), ∃ s : State, FirstSentinel s.buf 0 ∧
    10 ≤ s.buf.length - 0 ∧ s.buf.read (0 + 1) = some l ∧ l.toNat < 10 := by
  intro l hl
  refine ⟨{ ready with buf := mfc.startByte :: l :: zeros 8 }, ⟨rfl, fun _ h => absurd h (by omega)⟩, by simp [zeros_length],
    rfl, ?_⟩
  revert l
  decide

/-- Length byte 10 with ten bytes present, length byte 255 with 255. -/
theorem witness_ParserWaitsForBody : ∀ p ∈ ([(0x0A, 8), (0xFF, 253)] : List (Byte × Nat)), ∃ s : State,
    FirstSentinel s.buf 0 ∧ 10 ≤ s.buf.length - 0 ∧ s.buf.read (0 + 1) = some p.1 ∧ 10 ≤ p.1.toNat ∧
    s.buf.length + 1 = 0 + p.1.toNat + 1 := by
  intro p hp
  refine ⟨{ ready with buf := mfc.startByte :: p.1 :: zeros p.2 }, ⟨rfl, fun _ h => absurd h (by omega)⟩, ?_⟩
  simp at hp
  obtain rfl | rfl := hp <;> simp [zeros_length, Memory.read]

theorem witness_ParserRejectsWrongChecksum_length10 : ∃ (s : State) (garbage rest more : Bytes) (l c : Byte),
    s.buf = garbage ++ (mfc.startByte :: l :: rest ++ [c]) ++ more ∧ NoSentinel garbage ∧
    l.toNat = 10 ∧ rest.length + 2 = l.toNat ∧ checksum (l :: rest) ≠ c :=
  ⟨{ ready with buf := [other] ++ (mfc.startByte :: 0x0A :: zeros 8 ++ [0x00]) ++ small }, [other], zeros 8, small,
    0x0A, 0x00, rfl, by simp [NoSentinel, other_ne], by decide, by decide, by decide⟩

theorem witness_ParserRejectsWrongChecksum_length255 : ∃ (s : State) (garbage rest more : Bytes) (l c : Byte),
    s.buf = garbage ++ (mfc.startByte :: l :: rest ++ [c]) ++ more ∧ NoSentinel garbage ∧
    l.toNat = 255 ∧ rest.length + 2 = l.toNat ∧ checksum (l :: rest) ≠ c :=
  ⟨{ ready with buf := [] ++ (mfc.startByte :: 0xFF :: zeros 253 ++ [0x00]) ++ [] }, [], zeros 253, [],
    0xFF, 0x00, rfl, by simp [NoSentinel], by decide, by decide +kernel, by decide +kernel⟩

theorem exec_badSum : exec .parseStep { ready with buf := mfc.startByte :: 0x0A :: zeros 9 } = .next
    { ready with out := [.log .badSum (mfc.startByte :: 0x0A :: zeros 9)], returned := [.corruptSum] } := by
  have h : scan mfc (mfc.startByte :: 0x0A :: zeros 9) = .corrupt .badSum (mfc.startByte :: 0x0A :: zeros 9) := by
    simp [scan, zeros, find_head, List.replicate, malformedLength, candidate, covered, slice, Memory.read, checksum,
      checksumFrom, Config.headerSize]
  have hp : parseStep mfc { ready with buf := mfc.startByte :: 0x0A :: zeros 9 } = _ := parseStep_corrupt h
  simp only [exec, execParseStep, hp]
  rfl

theorem witness_ParserRejectsWrongChecksum_code : ∃ (i : Instr) (s t : State), exec i s = .next t ∧
    t.returned = s.returned ++ [.corruptSum] :=
  ⟨.parseStep, _, _, exec_badSum, rfl⟩

/-- The smallest and the largest payload. -/
theorem witness_ParserAcceptsValidFrame : ∀ p ∈ ([([], 0x0A), (zeros 245, 0xFF)] : List (Bytes × Byte)),
    ∃ (s : State) (garbage more : Bytes),
    s.buf = garbage ++ (mfc.startByte :: [p.2, 0xE1, 1, 2, 3, 4, 5, 0x08, 0x63] ++ p.1
      ++ [checksum ([p.2, 0xE1, 1, 2, 3, 4, 5, 0x08, 0x63] ++ p.1)]) ++ more ∧
    NoSentinel garbage ∧ p.1.length + 10 = p.2.toNat := by
  intro p hp
  refine ⟨{ ready with buf := _ }, [other], [mfc.startByte], rfl, by simp [NoSentinel, other_ne], ?_⟩
  simp at hp
  obtain rfl | rfl := hp <;> simp [zeros_length]

theorem witness_FrameTypeClasses : ∃ t, t ∉ [mfc.ftNetworkQuery, mfc.ftSet, mfc.ftGet, mfc.ftNotify] :=
  ⟨mfc.typeCode 4, by simp [Config.Params.ftNetworkQuery, Config.Params.ftSet, Config.Params.ftGet,
    Config.Params.ftNotify]⟩

theorem witness_ParserRunsWireFrame : ∃ (s t : State) (garbage f more : Bytes) (i : Instr), i.wf mfc = true ∧
    i.form = .wire ∧ encode mfc i = some f ∧ s.buf = garbage ++ f ++ more ∧ NoSentinel garbage ∧ exec i s = .next t :=
  ⟨{ ready with buf := [other] ++ encodeFrame mfc mfc.ftNetworkQuery fieldsQ ++ [mfc.startByte] }, _, [other], _,
    [mfc.startByte], .frameNetq fieldsQ, rfl, rfl, rfl, rfl, by simp [NoSentinel, other_ne], rfl⟩

theorem witness_WaitingChangesNothing : ∃ (s t : State) (r : ResultCode), exec .parseStep s = .next t ∧
    t.returned = s.returned ++ [r] ∧ r.isWait = true := by
  refine ⟨{ ready with buf := small.take 5 }, { ready with buf := small.take 5, returned := [.waitHeader] },
    .waitHeader, ?_, rfl, rfl⟩
  have h : parseStep mfc { ready with buf := small.take 5 } = _ := parseStep_wait scan_small_head
  simp only [exec, execParseStep, h]
  rfl

theorem witness_ParseRunIsTheLoop_stops : ∃ (s t : State) (r : ResultCode), exec .parseStep s = .next t ∧
    t.returned = s.returned ++ [r] ∧ r ≠ .gotFrame :=
  ⟨bad, badAfter, .corruptLength, exec_bad, rfl, by decide⟩

theorem witness_ParseRunIsTheLoop_goes_on : ∃ s t : State, exec .parseStep s = .next t ∧
    t.returned = s.returned ++ [.gotFrame] :=
  ⟨{ ready with buf := small }, (smallAfter { ready with buf := small }).ret .gotFrame,
    by rw [exec, execParseStep, step_small _ rfl]; rfl, by simp [smallAfter]⟩

theorem witness_ParseRunEnds : ∃ s : State, s.buf.wf ∧ s.buf.length = 1024 :=
  ⟨{ ready with buf := zeros 1024 }, by simp [Memory.wf, zeros_length, Config.bufCeiling], by simp [zeros_length]⟩

theorem witness_ReceptionIgnoresIdentifier : ∃ s t : State, s.applianceId = some 0xE1 ∧
    Instr.parseRun.isReceive = true ∧ exec .parseRun s = .next t :=
  ⟨{ ready with buf := small }, _, rfl, rfl, run_small _ rfl⟩

theorem witness_ReceptionIgnoresIdentifier_wire : ∃ s t : State, (Instr.frameNetq fieldsQ).form = .wire ∧
    exec (.frameNetq fieldsQ) s = .next t :=
  ⟨ready, _, rfl, rfl⟩

theorem append_small (s : State) (h : s.buf = []) :
    exec (.rxAppend small) s = .next { s with buf := small, returned := s.returned ++ [.ok] } := by
  simp [exec, execRxAppend, rxAppend, overCeiling, Config.bufCeiling, h, small, State.append, State.ret]

/-- `small` in two chunks, parsed in between, against one append. -/
theorem witness_ScheduleDoesNotMatter : ∃ (one two : List Instr) (s t u : State),
    (∀ i ∈ one ++ two, i.isReceive = true) ∧ rxBytes one = rxBytes two ∧ execAll (one ++ [.parseRun]) s = .next t ∧
    (∀ r ∈ t.returned.drop s.returned.length, r.isFault = false) ∧ execAll (two ++ [.parseRun]) s = .next u ∧
    .overrun ∉ u.returned.drop s.returned.length := by
  have h1 : ∀ s : State, s.buf = [] → exec (.rxAppend (small.take 5)) s = .next
      { s with buf := small.take 5, returned := s.returned ++ [.ok] } := by
    intro s hs
    simp [exec, execRxAppend, rxAppend, overCeiling, Config.bufCeiling, hs, small, State.append, State.ret]
  have h2 : ∀ s : State, s.buf = small.take 5 → exec .parseStep s = .next (s.ret .waitHeader) := by
    intro s hs
    rw [exec, execParseStep, parseStep_wait (by rw [hs, scan_small_head]), finish_pair]
  have h3 : ∀ s : State, s.buf = small.take 5 → exec (.rxAppend (small.drop 5)) s = .next
      { s with buf := small, returned := s.returned ++ [.ok] } := by
    intro s hs
    simp [exec, execRxAppend, rxAppend, overCeiling, Config.bufCeiling, hs, small, State.append, State.ret]
  refine ⟨[.rxAppend (small.take 5), .parseStep, .rxAppend (small.drop 5)], [.rxAppend small], ready,
    (smallAfter { ready with buf := small, returned := [.ok, .waitHeader, .ok] }).ret .waitNoStart,
    (smallAfter { ready with buf := small, returned := [.ok] }).ret .waitNoStart, by decide, rfl, ?_, ?_, ?_, ?_⟩
  · simp only [List.cons_append, List.nil_append, execAll]
    rw [h1 ready rfl]
    dsimp only
    rw [h2 _ rfl]
    dsimp only
    rw [h3 _ rfl]
    dsimp only
    rw [run_small _ rfl]
    rfl
  · simp [smallAfter, ready, ResultCode.isFault]
  · simp only [List.cons_append, List.nil_append, execAll]
    rw [append_small ready rfl]
    dsimp only
    rw [run_small _ rfl]
    rfl
  · simp [smallAfter, ready]

/-- `small` delivered n times, each copy parsed before the next arrives. -/
def repeated : Nat → List Instr
  | 0 => []
  | n + 1 => .rxAppend small :: .parseRun :: repeated n

theorem run_repeated (n : Nat) (s : State) (h : s.buf = []) : ∃ t rs, execAll (repeated n ++ [.parseRun]) s = .next t ∧
    t.returned = s.returned ++ rs ∧ ∀ r ∈ rs, r.isFault = false ∧ r ≠ .overrun := by
  induction n generalizing s with
  | zero =>
    have hw : parseStep mfc s = (s, .waitNoStart) := parseStep_wait (by rw [h]; rfl)
    exact ⟨s.ret .waitNoStart, [.waitNoStart], by simp [repeated, execAll, exec, execParseRun, parseRun, h, parseLoop, hw],
      rfl, by decide⟩
  | succ n ih =>
    have ha := append_small s h
    have hr := run_small { s with buf := small, returned := s.returned ++ [.ok] } rfl
    obtain ⟨t, rs, ht, hrs, hf⟩ := ih ((smallAfter { s with buf := small, returned := s.returned ++ [.ok] }).ret .waitNoStart)
      (by simp [smallAfter, small])
    refine ⟨t, .ok :: .waitNoStart :: rs, ?_, by simp [hrs, smallAfter], by simpa [ResultCode.isFault] using hf⟩
    simp only [repeated, List.cons_append, execAll]
    rw [ha]
    dsimp only
    rw [hr]
    exact ht

/-- A stream of 1100 bytes, longer than the ceiling: the parses in between make room for it. -/
theorem witness_ScheduleDoesNotMatter_long : ∃ (one two : List Instr) (s t u : State),
    (∀ i ∈ one ++ two, i.isReceive = true) ∧ rxBytes one = rxBytes two ∧ one ≠ two ∧ 1024 < (rxBytes one).length ∧
    execAll (one ++ [.parseRun]) s = .next t ∧ (∀ r ∈ t.returned.drop s.returned.length, r.isFault = false) ∧
    execAll (two ++ [.parseRun]) s = .next u ∧ .overrun ∉ u.returned.drop s.returned.length := by
  have hi : ∀ n, ∀ i ∈ repeated n, i.isReceive = true := by
    intro n
    induction n with
    | zero => simp [repeated]
    | succ n ih => simpa [repeated, Instr.isReceive] using ih
  have hl : ∀ n, (rxBytes (repeated n)).length = 11 * n := by
    intro n
    induction n with
    | zero => rfl
    | succ n ih =>
      rw [show rxBytes (repeated (n + 1)) = small ++ rxBytes (repeated n) from rfl, List.length_append, ih]
      simp [small]
      omega
  have hw : exec .parseStep ready = .next (ready.ret .waitNoStart) := rfl
  obtain ⟨t, rs, ht, hrs, hf⟩ := run_repeated 100 ready rfl
  obtain ⟨u, qs, hu, hqs, hg⟩ := run_repeated 100 (ready.ret .waitNoStart) rfl
  refine ⟨repeated 100, .parseStep :: repeated 100, ready, t, u, ?_, rfl, ?_, by rw [hl]; decide, ht, ?_, ?_, ?_⟩
  · intro i h
    rcases List.mem_append.mp h with h | h
    · exact hi 100 i h
    · rcases List.mem_cons.mp h with rfl | h
      · rfl
      · exact hi 100 i h
  · intro h
    have h' : some (Instr.rxAppend small) = some .parseStep := congrArg List.head? h
    cases h'
  · rw [hrs]
    exact fun r hr => (hf r (by simpa [ready] using hr)).1
  · rw [List.cons_append, execAll, hw]
    exact hu
  · rw [hqs]
    intro h
    have h' : ResultCode.overrun ∈ ResultCode.waitNoStart :: qs := by simpa [ready] using h
    rcases List.mem_cons.mp h' with h | h
    · cases h
    · exact (hg _ h).2 rfl

theorem witness_TransmitFrame : ∃ (s : State) (a : Byte) (p : Bytes), s.applianceId = some a ∧ p.length = 245 :=
  ⟨ready, 0xE1, zeros 245, rfl, by simp [zeros_length]⟩

theorem witness_TransmitBody : ∃ (s : State) (a : Byte) (b : Bytes), s.applianceId = some a ∧ b.length = 244 :=
  ⟨ready, 0xE1, zeros 244, rfl, by simp [zeros_length]⟩

theorem witness_TransmitRefusals_no_id : ∃ s : State, s.applianceId = none := ⟨{ ready with applianceId := none }, rfl⟩

theorem witness_TransmitRefusals_payload : ∃ (s : State) (a : Byte) (p : Bytes), s.applianceId = some a ∧
    p.length = 246 ∧ 245 < p.length :=
  ⟨ready, 0xE1, zeros 246, rfl, by simp [zeros_length], by simp [zeros_length]⟩

theorem witness_TransmitRefusals_body : ∃ (s : State) (a : Byte) (b : Bytes), s.applianceId = some a ∧
    b.length = 245 ∧ 244 < b.length :=
  ⟨ready, 0xE1, zeros 245, rfl, by simp [zeros_length], by simp [zeros_length]⟩

theorem witness_TransmitProbe : ∃ (s u : State) (a : Byte), s.applianceId = some a ∧ u.applianceId = none :=
  ⟨ready, { ready with applianceId := none }, 0xE1, rfl, rfl⟩

theorem witness_NetworkQueryReply : ∃ (a v : Byte) (f : Bytes), Event.tx f ∈ replyEvents (some a) v :=
  ⟨0xE1, 0x08, _, List.mem_cons_self⟩

theorem witness_BuildThenParse : ∃ (s r : State) (a : Byte) (p : Bytes), s.applianceId = some a ∧ p.length = 245 ∧
    r.buf = [] :=
  ⟨ready, ready, 0xE1, zeros 245, rfl, by simp [zeros_length], rfl⟩

theorem witness_ActionFrames : ∃ (s : State) (a : Byte), s.applianceId = some a := ⟨ready, 0xE1, rfl⟩

theorem witness_RegisterWriters_crc : ∃ (i : Instr) (s t : State), exec i s = .next t ∧ t.crc ≠ s.crc :=
  ⟨.crcClr, ready, { ready with crc := some 0x00, returned := [.done] }, rfl, by decide⟩

theorem witness_RegisterWriters_sum : ∃ (i : Instr) (s t : State), exec i s = .next t ∧ t.sum ≠ s.sum :=
  ⟨.sumUpd 0x01, { ready with sum := some 0x00 }, { ready with sum := some 0xFF, returned := [.done] }, rfl, by decide⟩

theorem witness_RegisterWriters_protoVer : ∃ (i : Instr) (s t : State), exec i s = .next t ∧
    t.protoVer ≠ s.protoVer :=
  ⟨.frameOther 0x77 fieldsX, ready, _, test_frameOther, by decide⟩

theorem witness_RegisterWriters_applianceId : ∃ (i : Instr) (s t : State), exec i s = .next t ∧
    t.applianceId ≠ s.applianceId :=
  ⟨.cfgId 0x00, ready, { ready with applianceId := some 0x00, returned := [.done] }, rfl, by decide⟩

theorem witness_BufferWriters : ∃ (i : Instr) (s t : State), exec i s = .next t ∧ t.buf ≠ s.buf :=
  ⟨.parseStep, bad, badAfter, exec_bad, by simp [bad, badAfter, ready]⟩

theorem witness_EventSources : ∃ (i : Instr) (s t : State), exec i s = .next t ∧ t.out ≠ s.out :=
  ⟨.parseStep, bad, badAfter, exec_bad, by simp [bad, badAfter, ready]⟩

theorem witness_ProtoVerIsLastAccepted : ∃ (i : Instr) (s t : State), exec i s = .next t ∧ i ≠ .reset :=
  ⟨.frameOther 0x77 fieldsX, ready, _, test_frameOther, by decide⟩

theorem witness_RefusalsChangeNothing : ∃ (i : Instr) (s t : State) (r : ResultCode), exec i s = .next t ∧
    t.returned = s.returned ++ [r] ∧ r.isRefusal = true :=
  ⟨.crcRd, ready, { ready with returned := [.refusedNoValue] }, .refusedNoValue, rfl, rfl, rfl⟩

theorem witness_FaultEntry : ∃ (i : Instr) (s t : State) (r : ResultCode), exec i s = .next t ∧
    t.returned = s.returned ++ [r] ∧ r.isFault = true :=
  ⟨.parseStep, bad, badAfter, .corruptLength, exec_bad, rfl, rfl⟩

theorem witness_UnitsAreIndependent : ∃ (i : Instr) (s t : State), i.isUnit = false ∧ i ≠ .reset ∧
    exec i s = .next t :=
  ⟨.parseStep, bad, badAfter, rfl, by decide, exec_bad⟩

/-- A full buffer and an event already emitted. -/
theorem witness_StepKeepsInvariant : ∃ s t : State, Inv s ∧ step s = .next t ∧ s.buf.length = 1024 ∧ s.out ≠ [] := by
  refine ⟨{ ready with buf := zeros 1024, out := [.log .badLength [0xAA]], pending := [[0x10]] }, _, ⟨?_, ?_⟩, rfl, ?_,
    by simp⟩
  · simp [Memory.wf, zeros_length, Config.bufCeiling]
  · simp [Event.wf]
  · simp [zeros_length]

end Sys2Proof.Tests
end

section
/-! PROOFS. The frame parser (43_frame_parser.md): its pass and its loop as operations of the host, and the
statements about them. -/

namespace Sys2Proof.Machine

open Config (Params mfc)

/-- The length byte stands right after the sentinel (30_encoding.md R60). -/
theorem read_length_of_header {m : Memory} {off : Nat} {h : Header} (hh : Header.read (m.drop off) = some h) :
    m.read (off + 1) = some h.length := by
  obtain ⟨rest, hm⟩ := Header.read_eq_some hh
  rw [← Memory.read_drop, hm]
  rfl

theorem FirstSentinel.find_eq {m : Memory} {off : Nat} (h : FirstSentinel m off) :
    find m mfc.startByte = some off :=
  find_eq_some.mpr h

/-- The test of R114: behind a well-formed length the parser waits for the frame's last byte. -/
theorem scan_eq_waitBody {m : Memory} {off : Nat} {l : Byte} (hs : FirstSentinel m off)
    (hten : 10 ≤ m.length - off) (hl : m.read (off + 1) = some l) (hwf : 10 ≤ l.toNat)
    (hshort : m.length < off + l.toNat + 1) : scan mfc m = .wait .waitBody := by
  rcases scan_cases mfc m with ⟨hf, _⟩ | ⟨o, hf, hcase⟩
  · rw [hs.find_eq] at hf
    cases hf
  · obtain rfl : off = o := Option.some.inj (hs.find_eq.symm.trans hf)
    rcases hcase with ⟨hlt, _⟩ | ⟨h, hh, hcase⟩
    · omega
    · obtain rfl : l = h.length := Option.some.inj (hl.symm.trans (read_length_of_header hh))
      rcases hcase with ⟨hlt, _⟩ | ⟨_, _, hw⟩ | ⟨c, _, hc, _⟩
      · omega
      · exact hw
      · rw [(Memory.read_eq_none m _).mpr (by omega)] at hc
        cases hc

theorem exec_parseStep (s : State) : exec .parseStep s = finish (parseStep mfc s) := rfl

theorem exec_parseRun (s : State) : exec .parseRun s = finish (parseRun mfc s) := rfl

/-- A pass of the parser returns nothing to the host itself. -/
theorem parseStep_returned (P : Params) (s : State) : (parseStep P s).1.returned = s.returned := by
  rcases parseStep_effect P s with ⟨_, _, h⟩ | ⟨_, _, _, h⟩ | ⟨_, _, _, h, ha⟩
  · rw [h]
  · rw [h, raise_eq]
  · rw [h, ha.rest.returned]

/-- What PARSE.STEP's returned code says of the parser's pass. -/
theorem parseStep_of_exec {s t : State} {r : ResultCode} (h : exec .parseStep s = .next t)
    (hr : t.returned = s.returned ++ [r]) : ∃ u, parseStep mfc s = (u, r) ∧ t = u.ret r := by
  rw [exec_parseStep] at h
  cases hp : parseStep mfc s with
  | mk u q =>
    rw [hp, finish_pair] at h
    obtain rfl : u.ret q = t := Host.Outcome.next.inj h
    have hu : u.returned = s.returned := by simpa [hp] using parseStep_returned mfc s
    obtain rfl : q = r := by simpa [hu] using hr
    exact ⟨u, rfl, rfl⟩

/-- A pass that answers FRAME accepts one frame. -/
theorem accepts_of_gotFrame {P : Params} {s t : State} (h : parseStep P s = (t, .gotFrame)) :
    ∃ k es, Accepts s t k es := by
  rcases parseStep_effect P s with ⟨r, hr, he⟩ | ⟨c, b, _, he⟩ | ⟨u, k, es, he, ha⟩
  · obtain rfl : r = .gotFrame := by simpa using congrArg Prod.snd (he.symm.trans h)
    cases hr
  · have hc : c.result = .gotFrame := by simpa using congrArg Prod.snd (he.symm.trans h)
    cases c <;> cases hc
  · obtain rfl : u = t := by simpa using congrArg Prod.fst (he.symm.trans h)
    exact ⟨k, es, ha⟩

/-- A pass that answers anything but FRAME emits no `EV_FRAME`. -/
theorem out_of_not_gotFrame {P : Params} {s t : State} {r : ResultCode} (h : parseStep P s = (t, r))
    (hr : r ≠ .gotFrame) : ∃ es, t.out = s.out ++ es ∧ es.countP Event.isFrame = 0 := by
  rcases parseStep_effect P s with ⟨_, _, he⟩ | ⟨c, b, _, he⟩ | ⟨_, _, _, he, _⟩
  · cases he.symm.trans h
    exact ⟨[], (List.append_nil _).symm, rfl⟩
  · cases he.symm.trans h
    exact ⟨[.log c b], rfl, rfl⟩
  · cases he.symm.trans h
    exact absurd rfl hr

theorem parseLoop_of_not_gotFrame {P : Params} {s t : State} {r : ResultCode} (h : parseStep P s = (t, r))
    (hr : r ≠ .gotFrame) (n : Nat) : parseLoop P n s = (t, r) := by
  cases n with
  | zero => exact h
  | succ n =>
    rw [parseLoop, h]
    split
    · next he => exact absurd (congrArg Prod.snd he) hr
    · rfl

theorem parseLoop_of_gotFrame {P : Params} {s t : State} (h : parseStep P s = (t, .gotFrame)) (n : Nat) :
    parseLoop P (n + 1) s = parseLoop P n t := by
  rw [parseLoop, h]

theorem buf_length_lt_of_gotFrame {P : Params} {s t : State} (h : parseStep P s = (t, .gotFrame)) :
    t.buf.length < s.buf.length := by
  obtain ⟨k, _, ha⟩ := accepts_of_gotFrame h
  have hlow := ha.low
  have hhigh := ha.high
  rw [ha.buf, List.length_drop]
  omega

/-- Fuel beyond the length of BUF changes nothing, since each accepted frame removes at least one byte (R120). -/
theorem parseLoop_eq_of_length_le (P : Params) (s : State) (n m : Nat) (hn : s.buf.length ≤ n)
    (hm : s.buf.length ≤ m) : parseLoop P n s = parseLoop P m s := by
  cases hp : parseStep P s with
  | mk t r =>
    by_cases hr : r = .gotFrame
    · subst hr
      have hlt := buf_length_lt_of_gotFrame hp
      obtain ⟨n, rfl⟩ := Nat.exists_eq_add_one_of_ne_zero (show n ≠ 0 by omega)
      obtain ⟨m, rfl⟩ := Nat.exists_eq_add_one_of_ne_zero (show m ≠ 0 by omega)
      rw [parseLoop_of_gotFrame hp, parseLoop_of_gotFrame hp]
      exact parseLoop_eq_of_length_le P t n m (by omega) (by omega)
    · rw [parseLoop_of_not_gotFrame hp hr, parseLoop_of_not_gotFrame hp hr]
termination_by s.buf.length

theorem parseRun_of_not_gotFrame {P : Params} {s t : State} {r : ResultCode} (h : parseStep P s = (t, r))
    (hr : r ≠ .gotFrame) : parseRun P s = (t, r) :=
  parseLoop_of_not_gotFrame h hr _

/-- The unrolling law of R119: after an accepted frame PARSE.RUN goes on as if it began there. -/
theorem parseRun_of_gotFrame {P : Params} {s t : State} (h : parseStep P s = (t, .gotFrame)) :
    parseRun P s = parseRun P t := by
  have hlt := buf_length_lt_of_gotFrame h
  calc parseRun P s = parseLoop P (s.buf.length + 1) s := parseLoop_eq_of_length_le P s _ _ (by omega) (by omega)
    _ = parseLoop P s.buf.length t := parseLoop_of_gotFrame h _
    _ = parseRun P t := parseLoop_eq_of_length_le P t _ _ (by omega) (by omega)

/-- Settles O27: the scan ends at the test for the frame's last byte, and a waiting pass keeps the state. -/
theorem parserWaitsForBody : Obligations.ParserWaitsForBody := by
  unfold Obligations.ParserWaitsForBody
  intro s off l hs hten hl hwf hshort
  rw [exec_parseStep, parseStep_wait (scan_eq_waitBody hs hten hl hwf hshort), finish_pair]
  rfl

/-- Settles O34: PARSE.RUN ends with the first pass that does not answer FRAME, and after one that does it is
PARSE.RUN from there, since its fuel always suffices. -/
theorem parseRunIsTheLoop : Obligations.ParseRunIsTheLoop := by
  unfold Obligations.ParseRunIsTheLoop
  refine ⟨decodeCommand_packet .parseRun [], fun s t r h hret hr => ?_, fun s t h hret => ?_⟩
  · obtain ⟨u, hp, rfl⟩ := parseStep_of_exec h hret
    refine ⟨by rw [exec_parseRun, parseRun_of_not_gotFrame hp hr, finish_pair], ?_⟩
    simpa using out_of_not_gotFrame hp hr
  · obtain ⟨u, hp, rfl⟩ := parseStep_of_exec h hret
    obtain ⟨k, es, ha⟩ := accepts_of_gotFrame hp
    have hu : ({ u.ret .gotFrame with returned := s.returned } : State) = u := by
      rw [← ha.rest.returned]
      rfl
    exact ⟨by rw [hu, exec_parseRun, exec_parseRun, parseRun_of_gotFrame hp], es, ha.out, ha.count⟩

end Sys2Proof.Machine
end

section
/-! PROOFS. Faults and the end of an operation (60_exceptions.md section 4): every operation ends in a next state
(R160), and one that answers a fault's code has gone through fault entry (R158). -/

namespace Sys2Proof.Machine

open Config (Params mfc)

/-- Every arm of `exec` is the end of a host operation or an internal one: no arm faults or refuses. -/
theorem exec_isNext (i : Instr) (s : State) : ∃ t, exec i s = .next t := by
  cases i <;> exact ⟨_, rfl⟩

/-- Settles O3: every operation ends, and a run of operations by induction on their list. -/
theorem noOperationGetsStuck : Obligations.NoOperationGetsStuck := by
  unfold Obligations.NoOperationGetsStuck
  refine ⟨exec_isNext, fun is => ?_⟩
  induction is with
  | nil => exact fun s => ⟨s, rfl⟩
  | cons i is ih =>
    intro s
    obtain ⟨t, ht⟩ := exec_isNext i s
    rw [execAll, ht]
    exact ih t

/-- From `s` to `t` no fault's code has gone back to the host. -/
def NoFaultReturned (s t : State) : Prop :=
  ∃ rs, t.returned = s.returned ++ rs ∧ ∀ r ∈ rs, r.isFault = false

/-- The operation `i` has led from `s` to `t` by fault entry: some frames accepted before (by PARSE.RUN only), then
`raise`, and its code to the host. -/
def EndsInFault (i : Instr) (s t : State) : Prop :=
  ∃ u k es c b, AcceptsMany s u k es ∧ (i ≠ .parseRun → es = []) ∧ finish (raise c b u) = .next t

/-- An internal operation, or the acceptance of a wire frame: no code goes to the host. -/
theorem noFaultReturned_of_next {s t u : State} (h : Host.Outcome.next (φ := Fault) (ρ := Refusal) u = .next t)
    (hu : u.returned = s.returned) : NoFaultReturned s t := by
  obtain rfl := Host.Outcome.next.inj h
  exact ⟨[], by simp [hu], by simp⟩

/-- A host operation whose answer is known: the state after it and its code. -/
theorem noFaultReturned_of_finish {s t u : State} {p : State × ResultCode} {r : ResultCode} (h : finish p = .next t)
    (hp : p = (u, r)) (hu : u.returned = s.returned) (hr : r.isFault = false) : NoFaultReturned s t := by
  subst hp
  obtain rfl := Host.Outcome.next.inj h
  exact ⟨[r], by simp [hu], by simpa using hr⟩

/-- A single appended code is not a fault's. -/
theorem NoFaultReturned.isFault_eq_false {s t : State} {r : ResultCode} (h : NoFaultReturned s t)
    (hr : t.returned = s.returned ++ [r]) : r.isFault = false := by
  obtain ⟨rs, hrs, hall⟩ := h
  obtain rfl : rs = [r] := List.append_cancel_left (hrs.symm.trans hr)
  exact hall r (List.mem_singleton_self r)

/-- `raise` straight from the state the operation began in. -/
theorem endsInFault_of_raise {i : Instr} {s t : State} {c : Cause} {b : Bytes} (h : finish (raise c b s) = .next t) :
    EndsInFault i s t :=
  ⟨s, 0, [], c, b, .zero s, fun _ => rfl, h⟩

theorem ResultCode.isFault_eq_false_of_isWait {r : ResultCode} (h : r.isWait = true) : r.isFault = false := by
  cases r <;> simp_all [ResultCode.isWait, ResultCode.isFault]

theorem compareCode_isFault_eq_false (a t : Byte) : (compareCode a t).isFault = false := by
  unfold compareCode
  split <;> rfl

theorem txFrame_isFault_eq_false (P : Params) (ty : Byte) (p : Bytes) (s : State) :
    (txFrame P ty p s).2.isFault = false := by
  rcases txFrame_cases P ty p s with ⟨_, h⟩ | ⟨_, _, _, h⟩ | ⟨_, _, _, h⟩ <;> rw [h] <;> rfl

/-- Only the accumulator and the parser can fault (60_exceptions.md R150). -/
theorem noFaultReturned_of_not_receive {i : Instr} {s t : State} (hi : i.isReceive = false)
    (h : exec i s = .next t) : NoFaultReturned s t := by
  cases i with
  | rxAppend | parseStep | parseRun => cases hi
  | reset | cfgId | crcClr | sumClr | badOp => exact noFaultReturned_of_finish h rfl rfl rfl
  | crcUpd b =>
    rcases crcUpdate_cases mfc b s with ⟨_, e⟩ | ⟨_, _, e⟩ <;> exact noFaultReturned_of_finish h e rfl rfl
  | crcRd =>
    rcases crcRead_cases s with ⟨_, e⟩ | ⟨_, _, e⟩ <;> exact noFaultReturned_of_finish h e rfl rfl
  | sumUpd b =>
    rcases sumUpdate_cases b s with ⟨_, e⟩ | ⟨_, _, e⟩ <;> exact noFaultReturned_of_finish h e rfl rfl
  | sumRd =>
    rcases sumRead_cases s with ⟨_, e⟩ | ⟨_, _, e⟩ <;> exact noFaultReturned_of_finish h e rfl rfl
  | sumChk a =>
    rcases sumCheck_cases a s with ⟨_, e⟩ | ⟨_, _, e⟩
    · exact noFaultReturned_of_finish h e rfl rfl
    · exact noFaultReturned_of_finish h e rfl (compareCode_isFault_eq_false _ _)
  | txFrame | txBody | txProbe =>
    exact noFaultReturned_of_finish h rfl (txFrame_returned _ _ _ _) (txFrame_isFault_eq_false _ _ _ _)
  | rxFlush => exact noFaultReturned_of_next h rfl
  | txNqReply => exact noFaultReturned_of_next h (txFrame_returned _ _ _ _)
  | frameAny | frameNetq | frameSet | frameGet | frameNotify | frameOther =>
    exact noFaultReturned_of_next h (acceptFrame_returned _ _ _ _ _)

theorem exec_rxAppend (c : Bytes) (s : State) : exec (.rxAppend c) s = finish (rxAppend c s) := rfl

theorem rxAppend_fault_cases {c : Bytes} {s t : State} (h : exec (.rxAppend c) s = .next t) :
    NoFaultReturned s t ∨ EndsInFault (.rxAppend c) s t := by
  rw [exec_rxAppend] at h
  rcases rxAppend_cases c s with ⟨_, e⟩ | ⟨_, e⟩
  · exact .inl (noFaultReturned_of_finish h e rfl rfl)
  · exact .inr (endsInFault_of_raise (e ▸ h))

theorem parseStep_fault_cases {s t : State} (h : exec .parseStep s = .next t) :
    NoFaultReturned s t ∨ EndsInFault .parseStep s t := by
  rw [exec_parseStep] at h
  rcases parseStep_effect mfc s with ⟨r, hr, e⟩ | ⟨c, b, _, e⟩ | ⟨u, k, es, e, ha⟩
  · exact .inl (noFaultReturned_of_finish h e rfl (ResultCode.isFault_eq_false_of_isWait hr))
  · exact .inr (endsInFault_of_raise (e ▸ h))
  · exact .inl (noFaultReturned_of_finish h e ha.rest.returned rfl)

theorem parseRun_fault_cases {s t : State} (h : exec .parseRun s = .next t) :
    NoFaultReturned s t ∨ EndsInFault .parseRun s t := by
  obtain ⟨u, k, es, ha, hrun, hlast⟩ := parseRun_effect mfc s
  rw [exec_parseRun, hrun] at h
  rcases hlast with ⟨r, hr, e⟩ | ⟨c, b, _, e⟩
  · exact .inl (noFaultReturned_of_finish h e ha.rest.returned (ResultCode.isFault_eq_false_of_isWait hr))
  · exact .inr ⟨u, k, es, c, b, ha, fun hne => absurd rfl hne, e ▸ h⟩

/-- An operation answers no fault's code or ends in fault entry. -/
theorem exec_fault_cases {i : Instr} {s t : State} (h : exec i s = .next t) :
    NoFaultReturned s t ∨ EndsInFault i s t := by
  cases hi : i.isReceive with
  | false => exact .inl (noFaultReturned_of_not_receive hi h)
  | true =>
    cases i with
    | rxAppend c => exact rxAppend_fault_cases h
    | parseStep => exact parseStep_fault_cases h
    | parseRun => exact parseRun_fault_cases h
    | _ => cases hi

/-- Settles O50: a fault's code comes from fault entry, which keeps what the frames accepted before it have left. -/
theorem faultEntry : Obligations.FaultEntry := by
  unfold Obligations.FaultEntry
  intro i s t r h hret hfault
  rcases exec_fault_cases h with hno | ⟨u, k, es, c, b, ha, hes, hraise⟩
  · rw [hno.isFault_eq_false hret] at hfault
    cases hfault
  · rw [raise_eq, finish_pair] at hraise
    obtain rfl := Host.Outcome.next.inj hraise
    have hc : c.result = r := by simpa [ha.rest.returned] using hret
    exact ⟨rfl, ha.rest.crc, ha.rest.sum, ha.rest.applianceId, ha.rest.pending, es, c, b,
      by rw [← ha.out]; rfl, hc, ha.noLog, ha.ver, hes⟩

end Sys2Proof.Machine
end

section
/-! PROOFS. The decoders and the encoder (30_encoding.md): commands and wire frames, there and back. -/

namespace Sys2Proof

open Config (Params mfc headerSize)

/-! ### Commands -/

theorem Opcode.ofByte?_eq_none {op : Byte} : Opcode.ofByte? op = none ↔ op ∉ Opcode.all.map Opcode.code := by
  simp [Opcode.ofByte?]

theorem decodeCommand_of_listed {op : Byte} {o : Opcode} (h : Opcode.ofByte? op = some o) (args : Bytes) :
    decodeCommand (op :: args) = o.operands args := by
  rw [decodeCommand, h]

theorem decodeCommand_of_unlisted {op : Byte} (h : Opcode.ofByte? op = none) (args : Bytes) :
    decodeCommand (op :: args) = .ok (.badOp op) := by
  rw [decodeCommand, h]

theorem noOperand_eq_ok {i j : Instr} {args : Bytes} : noOperand i args = .ok j ↔ args = [] ∧ i = j := by
  cases args <;> simp [noOperand]

theorem byteOperand_eq_ok {f : Byte → Instr} {j : Instr} {args : Bytes} :
    byteOperand f args = .ok j ↔ ∃ b, args = [b] ∧ f b = j := by
  match args with
  | [] => simp [byteOperand]
  | [b] => simp
  | _ :: _ :: _ => simp [byteOperand]

theorem byteSeqOperands_eq_ok {f : Byte → Bytes → Instr} {j : Instr} {args : Bytes} :
    byteSeqOperands f args = .ok j ↔ ∃ b s, args = b :: s ∧ f b s = j := by
  cases args <;> simp [byteSeqOperands]

/-- What the operands of a listed operation were read from is that operation's packet. -/
theorem Opcode.operands_canonical {P : Params} {o : Opcode} {args : Bytes} {i : Instr}
    (h : o.operands args = .ok i) : i.wf P = true ∧ i.form = .op ∧ encode P i = some (o.packet args) := by
  cases o with
  | reset | crcClr | crcRd | sumClr | sumRd | parseStep | parseRun | txProbe =>
    obtain ⟨rfl, rfl⟩ := noOperand_eq_ok.mp h
    exact ⟨rfl, rfl, rfl⟩
  | cfgId | crcUpd | sumUpd | sumChk =>
    obtain ⟨b, rfl, rfl⟩ := byteOperand_eq_ok.mp h
    exact ⟨rfl, rfl, rfl⟩
  | txFrame | txBody =>
    obtain ⟨b, s, rfl, rfl⟩ := byteSeqOperands_eq_ok.mp h
    exact ⟨rfl, rfl, rfl⟩
  | rxAppend =>
    cases h
    exact ⟨rfl, rfl, rfl⟩

/-- A decoded packet is its operation's encoding, or an unlisted `op` value and what follows it. -/
theorem decodeCommand_cases {P : Params} {b : Bytes} {i : Instr} (h : decodeCommand b = .ok i) :
    (i.wf P = true ∧ i.form = .op ∧ encode P i = some b) ∨
    (∃ op, i = .badOp op ∧ Opcode.ofByte? op = none) := by
  cases b with
  | nil => cases h
  | cons op args =>
    cases ho : Opcode.ofByte? op with
    | none =>
      rw [decodeCommand_of_unlisted ho] at h
      cases h
      exact .inr ⟨op, rfl, ho⟩
    | some o =>
      rw [decodeCommand_of_listed ho] at h
      obtain rfl := Opcode.code_of_ofByte? ho
      exact .inl (Opcode.operands_canonical h)

/-- Only commands decode from packets: not the internal micro-operations, not wire frames. -/
theorem form_of_decodeCommand {b : Bytes} {i : Instr} (h : decodeCommand b = .ok i) : i.form = .op := by
  rcases decodeCommand_cases (P := mfc) h with ⟨_, hform, _⟩ | ⟨op, rfl, _⟩
  · exact hform
  · rfl

/-- Settles O1: the listed `op` values by evaluation, the unlisted ones since no row of R69 has their code. -/
theorem opBytesDecode : Obligations.OpBytesDecode := by
  unfold Obligations.OpBytesDecode
  refine ⟨rfl, fun _ => rfl, rfl, fun _ => rfl, rfl, rfl, fun _ => rfl, rfl, fun _ => rfl, fun _ => rfl, rfl, rfl,
    fun _ _ => rfl, fun _ _ => rfl, rfl, fun op args h => ?_⟩
  exact decodeCommand_of_unlisted (Opcode.ofByte?_eq_none.mpr h) args

/-- Settles O4: an operation's packet decodes to its operands, and an unlisted `op` value to itself. -/
theorem commandEncodeDecode : Obligations.CommandEncodeDecode := by
  unfold Obligations.CommandEncodeDecode
  intro i hwf hform
  cases i with
  | rxFlush | txNqReply | frameAny | frameNetq | frameSet | frameGet | frameNotify | frameOther => cases hform
  | badOp op => exact ⟨_, rfl, decodeCommand_of_unlisted (Option.isNone_iff_eq_none.mp hwf) []⟩
  | _ => exact ⟨_, rfl, decodeCommand_packet _ _⟩

/-- Settles O5: by the cases of a decoded packet. -/
theorem commandBytesAreCanonical : Obligations.CommandBytesAreCanonical := by
  unfold Obligations.CommandBytesAreCanonical
  intro b i h
  rcases decodeCommand_cases h with ⟨hwf, hform, henc⟩ | ⟨op, rfl, ho⟩
  · exact ⟨hwf, hform, fun _ => henc⟩
  · exact ⟨Option.isNone_iff_eq_none.mpr ho, rfl, fun hne => absurd rfl (hne op)⟩

/-! ### Wire frames -/

theorem FrameFields.wf_iff {w : FrameFields} : w.wf = true ↔ w.payload.length ≤ 245 := by
  simp [FrameFields.wf]

/-- The length byte of a frame is the number of its bytes after the sentinel. -/
theorem eq_lengthByte {l : Byte} {n : Nat} (h : n + 10 = l.toNat) : l = BitVec.ofNat 8 (n + headerSize) := by
  rw [headerSize, h, BitVec.ofNat_toNat, BitVec.setWidth_eq]

/-- The header of an encoded frame. -/
def headerOf (P : Params) (t : Byte) (w : FrameFields) : Header where
  start := P.startByte
  length := BitVec.ofNat 8 (w.payload.length + headerSize)
  id := w.id
  sync := w.sync
  ver := w.ver
  type := t

@[simp] theorem headerOf_start (P : Params) (t : Byte) (w : FrameFields) : (headerOf P t w).start = P.startByte := rfl
@[simp] theorem headerOf_id (P : Params) (t : Byte) (w : FrameFields) : (headerOf P t w).id = w.id := rfl
@[simp] theorem headerOf_sync (P : Params) (t : Byte) (w : FrameFields) : (headerOf P t w).sync = w.sync := rfl
@[simp] theorem headerOf_ver (P : Params) (t : Byte) (w : FrameFields) : (headerOf P t w).ver = w.ver := rfl
@[simp] theorem headerOf_type (P : Params) (t : Byte) (w : FrameFields) : (headerOf P t w).type = t := rfl

/-- A payload of at most 245 bytes fits the length byte (30_encoding.md R62). -/
theorem headerOf_length_toNat (P : Params) (t : Byte) {w : FrameFields} (h : w.wf = true) :
    (headerOf P t w).length.toNat = w.payload.length + 10 := by
  have := FrameFields.wf_iff.mp h
  simp only [headerOf, BitVec.toNat_ofNat, headerSize]
  omega

theorem read_frameHead (P : Params) (t : Byte) (w : FrameFields) (s : Bytes) :
    Header.read (frameHead P t w ++ s) = some (headerOf P t w) := rfl

@[simp] theorem frameHead_length (P : Params) (t : Byte) (w : FrameFields) :
    (frameHead P t w).length = w.payload.length + 10 := by
  simp [frameHead]

/-- The bytes before the checksum, given back as they were written. -/
theorem slice_encodeFrame (P : Params) (t : Byte) (w : FrameFields) (i : Nat) :
    slice (encodeFrame P t w) i (w.payload.length + 10) = (frameHead P t w).drop i := by
  rw [slice, encodeFrame, List.take_left' (frameHead_length P t w)]

/-- The last byte of an encoded frame, at the address its length byte holds (30_encoding.md R63). -/
theorem getElem?_encodeFrame (P : Params) (t : Byte) (w : FrameFields) :
    (encodeFrame P t w)[w.payload.length + 10]? = some (checksum ((frameHead P t w).drop 1)) := by
  rw [encodeFrame, ← frameHead_length P t w, List.getElem?_concat_length]

theorem readFrame_encodeFrame {P : Params} {t : Byte} {w : FrameFields} (h : w.wf = true) :
    readFrame P (encodeFrame P t w) = .ok (t, w) := by
  have hL := headerOf_length_toNat P t h
  have hread : Header.read (encodeFrame P t w) = some (headerOf P t w) := read_frameHead P t w _
  have hpayload : (frameHead P t w).drop headerSize = w.payload := rfl
  simp only [readFrame, hread, hL, getElem?_encodeFrame]
  simp [slice_encodeFrame, hpayload]

/-- Everything the tests of R60 to R63 establish of one whole valid frame. -/
theorem readFrame_eq_ok {P : Params} {f : Bytes} {t : Byte} {w : FrameFields} (h : readFrame P f = .ok (t, w)) :
    ∃ d, Header.read f = some d ∧ d.start = P.startByte ∧ 10 ≤ d.length.toNat ∧ f.length = d.length.toNat + 1 ∧
      f[d.length.toNat]? = some (checksum (slice f 1 d.length.toNat)) ∧ t = d.type ∧
      w = { id := d.id, sync := d.sync, ver := d.ver, payload := slice f headerSize d.length.toNat } := by
  unfold readFrame at h
  split at h
  · cases h
  next d hd =>
  split at h
  · cases h
  next hstart =>
  split at h
  · cases h
  next hten =>
  split at h
  · cases h
  next c hc =>
  split at h
  · cases h
  next hlen =>
  split at h
  · cases h
  next hsum =>
  cases h
  simp only [ne_eq, not_not, not_lt] at hstart hten hlen hsum
  exact ⟨d, hd, hstart, hten, hlen, hsum ▸ hc, rfl, rfl⟩

/-- A sequence is all but its last byte, then that byte. -/
theorem take_append_of_getElem? {s : Bytes} {n : Nat} {c : Byte} (hlen : s.length = n + 1) (hc : s[n]? = some c) :
    s.take n ++ [c] = s := by
  calc s.take n ++ [c] = s.take (n + 1) := by rw [List.take_add_one, hc]; rfl
    _ = s := List.take_of_length_le hlen.le

/-- A header lies in the first ten bytes. -/
theorem Header.read_append {f : Bytes} {d : Header} (h : Header.read f = some d) (s : Bytes) :
    Header.read (f ++ s) = some d := by
  obtain ⟨rest, rfl⟩ := Header.read_eq_some h
  rfl

/-- The bytes that a frame's fields were read from are those fields' encoding. -/
theorem frameHead_of_read {P : Params} {H : Bytes} {d : Header} (hd : Header.read H = some d)
    (hstart : d.start = P.startByte) (hlen : H.length = d.length.toNat) :
    frameHead P d.type { id := d.id, sync := d.sync, ver := d.ver, payload := H.drop headerSize } = H := by
  obtain ⟨s, hs⟩ := Header.read_eq_some hd
  have hpay : H.drop headerSize = s := by rw [hs]; rfl
  have hl : d.length = BitVec.ofNat 8 (s.length + headerSize) := by
    refine eq_lengthByte ?_
    rw [← hlen, hs, List.length_append]
    exact Nat.add_comm _ _
  rw [frameHead, hpay, ← hl, ← hstart]
  exact hs.symm

/-- A valid frame is the encoding of what was read from it. -/
theorem eq_encodeFrame_of_readFrame {P : Params} {f : Bytes} {t : Byte} {w : FrameFields}
    (h : readFrame P f = .ok (t, w)) :
    f = encodeFrame P t w ∧ ∃ L : Byte, f[1]? = some L ∧ 10 ≤ L.toNat ∧ f.length = L.toNat + 1 ∧
      w.payload.length + 10 = L.toNat := by
  obtain ⟨d, hd, hstart, hten, hlen, hc, rfl, rfl⟩ := readFrame_eq_ok h
  have hf := take_append_of_getElem? hlen hc
  have hH : (f.take d.length.toNat).length = d.length.toNat := by simp [hlen]
  have hread : Header.read (f.take d.length.toNat) = some d := by
    cases hr : Header.read (f.take d.length.toNat) with
    | none => exact absurd (Header.read_eq_none.mp hr) (by omega)
    | some e => rw [← hd, ← hf, Header.read_append hr]
  have hhead := frameHead_of_read hread hstart hH
  refine ⟨?_, d.length, ?_, hten, hlen, ?_⟩
  · rw [encodeFrame, slice, hhead]
    exact hf.symm
  · obtain ⟨s, rfl⟩ := Header.read_eq_some hd
    rfl
  · rw [slice, List.length_drop, hH, headerSize]
    omega

theorem decodeLayout_of_readFrame {P : Params} {f : Bytes} {t : Byte} {w : FrameFields}
    (h : readFrame P f = .ok (t, w)) : decodeLayout P f = .ok (.frameAny t w) := by
  rw [decodeLayout, h]

theorem decodeFrame_of_readFrame {P : Params} {f : Bytes} {t : Byte} {w : FrameFields}
    (h : readFrame P f = .ok (t, w)) : decodeFrame P f = .ok (frameRow P t w) := by
  rw [decodeFrame, h]

theorem readFrame_of_decodeLayout {P : Params} {f : Bytes} {t : Byte} {w : FrameFields}
    (h : decodeLayout P f = .ok (.frameAny t w)) : readFrame P f = .ok (t, w) := by
  cases hr : readFrame P f with
  | error r =>
    rw [decodeLayout, hr] at h
    cases h
  | ok p =>
    rw [decodeLayout_of_readFrame hr] at h
    cases h
    rfl

/-! ### The rows of the wire frames -/

section Types

variable (P : Params)

theorem ftSet_ne_ftNetworkQuery : P.ftSet ≠ P.ftNetworkQuery := typeCode_ne P (by decide)
theorem ftGet_ne_ftNetworkQuery : P.ftGet ≠ P.ftNetworkQuery := typeCode_ne P (by decide)
theorem ftNotify_ne_ftNetworkQuery : P.ftNotify ≠ P.ftNetworkQuery := typeCode_ne P (by decide)
theorem ftGet_ne_ftSet : P.ftGet ≠ P.ftSet := typeCode_ne P (by decide)
theorem ftNotify_ne_ftSet : P.ftNotify ≠ P.ftSet := typeCode_ne P (by decide)
theorem ftNotify_ne_ftGet : P.ftNotify ≠ P.ftGet := typeCode_ne P (by decide)

@[simp] theorem classify_ftNetworkQuery : classify P P.ftNetworkQuery = .netq := by simp [classify]

@[simp] theorem classify_ftSet : classify P P.ftSet = .telemetry := by
  simp [classify, ftSet_ne_ftNetworkQuery]

@[simp] theorem classify_ftGet : classify P P.ftGet = .telemetry := by
  simp [classify, ftGet_ne_ftNetworkQuery]

@[simp] theorem classify_ftNotify : classify P P.ftNotify = .telemetry := by
  simp [classify, ftNotify_ne_ftNetworkQuery]

theorem classify_eq_other {t : Byte} :
    classify P t = .other ↔ t ≠ P.ftNetworkQuery ∧ t ≠ P.ftSet ∧ t ≠ P.ftGet ∧ t ≠ P.ftNotify := by
  unfold classify
  split_ifs with hq hrest
  · simp [hq]
  · simp only [false_iff]
    tauto
  · tauto

theorem frameRow_ftNetworkQuery (w : FrameFields) : frameRow P P.ftNetworkQuery w = .frameNetq w := by
  simp [frameRow]

theorem frameRow_ftSet (w : FrameFields) : frameRow P P.ftSet w = .frameSet w := by
  simp [frameRow, ftSet_ne_ftNetworkQuery]

theorem frameRow_ftGet (w : FrameFields) : frameRow P P.ftGet w = .frameGet w := by
  simp [frameRow, ftGet_ne_ftNetworkQuery, ftGet_ne_ftSet]

theorem frameRow_ftNotify (w : FrameFields) : frameRow P P.ftNotify w = .frameNotify w := by
  simp [frameRow, ftNotify_ne_ftNetworkQuery, ftNotify_ne_ftSet, ftNotify_ne_ftGet]

theorem frameRow_other {t : Byte} (w : FrameFields) (h : classify P t = .other) :
    frameRow P t w = .frameOther t w := by
  obtain ⟨hq, hs, hg, hn⟩ := (classify_eq_other P).mp h
  simp [frameRow, hq, hs, hg, hn]

end Types

/-- What a row of format WIRE is: a frame of some type and fields, which its bytes encode and whose acceptance is its
meaning; and but for the layout row it is the row that the type selects. -/
structure IsWireRow (i : Instr) (t : Byte) (w : FrameFields) : Prop where
  wf : w.wf = true
  encode_eq : encode mfc i = some (encodeFrame mfc t w)
  exec_eq : ∀ s, Machine.exec i s = .next (Machine.acceptFrame mfc (classify mfc t) t w s)
  row : (∀ t w, i ≠ .frameAny t w) → frameRow mfc t w = i

theorem exists_isWireRow {i : Instr} (hwf : i.wf mfc = true) (hform : i.form = .wire) :
    ∃ t w, IsWireRow i t w := by
  cases i with
  | frameAny t w => exact ⟨t, w, hwf, rfl, fun _ => rfl, fun h => absurd rfl (h t w)⟩
  | frameNetq w =>
    exact ⟨_, w, hwf, rfl, fun _ => by rw [classify_ftNetworkQuery]; rfl, fun _ => frameRow_ftNetworkQuery mfc w⟩
  | frameSet w => exact ⟨_, w, hwf, rfl, fun _ => by rw [classify_ftSet]; rfl, fun _ => frameRow_ftSet mfc w⟩
  | frameGet w => exact ⟨_, w, hwf, rfl, fun _ => by rw [classify_ftGet]; rfl, fun _ => frameRow_ftGet mfc w⟩
  | frameNotify w =>
    exact ⟨_, w, hwf, rfl, fun _ => by rw [classify_ftNotify]; rfl, fun _ => frameRow_ftNotify mfc w⟩
  | frameOther t w =>
    obtain ⟨hw, ht⟩ := (Bool.and_eq_true _ _).mp hwf
    have ht := of_decide_eq_true ht
    exact ⟨t, w, hw, rfl, fun _ => by rw [ht]; rfl, fun _ => frameRow_other mfc w ht⟩
  | _ => cases hform

/-- Settles O30: the codes are images of a permutation. -/
theorem frameTypeClasses : Obligations.FrameTypeClasses := by
  unfold Obligations.FrameTypeClasses
  refine ⟨?_, classify_ftNetworkQuery mfc, classify_ftSet mfc, classify_ftGet mfc, classify_ftNotify mfc,
    fun t h => (classify_eq_other mfc).mpr (by simpa using h)⟩
  exact List.Nodup.map (f := mfc.typeCode) mfc.typeCode.injective (l := [0, 1, 2, 3]) (by decide)

/-- Settles O6: a frame is read back from its encoding, and then its row is found by its type byte. -/
theorem wireEncodeDecode : Obligations.WireEncodeDecode := by
  unfold Obligations.WireEncodeDecode
  refine ⟨fun t w hw => decodeLayout_of_readFrame (readFrame_encodeFrame hw), fun i hwf hform hany => ?_⟩
  obtain ⟨t, w, hrow⟩ := exists_isWireRow hwf hform
  refine ⟨_, hrow.encode_eq, ?_⟩
  rw [decodeFrame_of_readFrame (readFrame_encodeFrame hrow.wf), hrow.row hany]

/-- Settles O7: the tests of the frame decoder leave no choice to the bytes. -/
theorem wireBytesAreCanonical : Obligations.WireBytesAreCanonical := by
  unfold Obligations.WireBytesAreCanonical
  intro f t w h
  obtain ⟨hf, L, hL, hten, hlen, hpay⟩ := eq_encodeFrame_of_readFrame (readFrame_of_decodeLayout h)
  have := L.isLt
  exact ⟨hf, by omega, by omega, L, hL, hlen, hpay⟩

end Sys2Proof
end

section
/-! PROOFS. The CRC generator (40_crc8.md) and the checksum unit (41_checksum.md): their functions and their
operations. -/

namespace Sys2Proof

open Config (Params mfc)

/-! ### The checksum of a sequence (41_checksum.md section 2) -/

theorem checksum_cons (b : Byte) (s : Bytes) : checksum (b :: s) = checksum s - b := by
  have h : checksum (b :: s) = checksumFrom (0 - b) s := rfl
  rw [h, checksumFrom_eq_add, zero_sub, neg_add_eq_sub]

theorem checksum_append (s t : Bytes) : checksum (s ++ t) = checksum s + checksum t := by
  rw [checksum, checksumFrom_append, checksumFrom_eq_add]
  rfl

theorem checksum_concat (s : Bytes) (c : Byte) : checksum (s ++ [c]) = checksum s - c := by
  have h : checksum [c] = 0 - c := rfl
  rw [checksum_append, h, add_sub, add_zero]

theorem validate_concat (s : Bytes) (c : Byte) : validate (s ++ [c]) = some (decide (checksum s = c)) := by
  simp [validate]

theorem checksum_perm {s t : Bytes} (h : s.Perm t) : checksum s = checksum t := by
  induction h with
  | nil => rfl
  | cons b _ ih => rw [checksum_cons, checksum_cons, ih]
  | swap a b s => simp only [checksum_cons, sub_right_comm]
  | trans _ _ ih₁ ih₂ => rw [ih₁, ih₂]

/-- Settles O18: by induction on the sequence, a byte subtracted being its complement added. -/
theorem checksumIsComplementOfSum : Obligations.ChecksumIsComplementOfSum := by
  unfold Obligations.ChecksumIsComplementOfSum
  refine ⟨fun s => ?_, fun s t => checksum_perm⟩
  induction s with
  | nil => rfl
  | cons b s ih =>
    rw [checksum_cons, BitVec.toNat_sub, ih, List.map_cons, List.sum_cons]
    omega

/-- Settles O19: from what the checksum of an appended byte is. -/
theorem checksumLaws : Obligations.ChecksumLaws := by
  unfold Obligations.ChecksumLaws
  refine ⟨rfl, checksum_append, fun s => by simp [validate_concat], fun s c => ?_⟩
  rw [validate_concat, checksum_concat, Option.some.injEq, decide_eq_true_iff]
  exact sub_eq_zero.symm

theorem bitMask_ne_zero {k : Nat} (hk : k < 8) : 1#8 <<< k ≠ 0#8 := by
  interval_cases k <;> decide

/-- A byte with one bit flipped is another byte. -/
theorem flipBit_ne (b : Byte) {k : Nat} (hk : k < 8) : b ^^^ (1#8 <<< k) ≠ b := by
  intro h
  exact bitMask_ne_zero hk (by simpa using h)

/-- The checksum tells two bytes at the same place apart. -/
theorem checksum_middle_ne {a b : Byte} (h : a ≠ b) (s t : Bytes) :
    checksum (s ++ a :: t) ≠ checksum (s ++ b :: t) := by
  simpa [checksum_append, checksum_cons] using h

/-- Settles O20: the flipped byte differs from the byte, and the checksum tells them apart. -/
theorem singleBitFlipDetected : Obligations.SingleBitFlipDetected := by
  unfold Obligations.SingleBitFlipDetected
  refine ⟨fun s t b k hk => ?_, fun s k hk => ?_⟩
  · have hne := checksum_middle_ne (flipBit_ne b hk) s t
    exact ⟨hne, by rw [validate_concat, decide_eq_false hne]⟩
  · rw [validate_concat, decide_eq_false (flipBit_ne _ hk).symm]

end Sys2Proof

namespace Sys2Proof.Machine

open Config (Params mfc)

/-! ### The operations of the CRC generator (40_crc8.md section 3) -/

theorem exec_crcUpd (b : Byte) (s : State) : exec (.crcUpd b) s = finish (crcUpdate mfc b s) := rfl
theorem exec_crcRd (s : State) : exec .crcRd s = finish (crcRead s) := rfl

theorem crcUpdate_of_none {s : State} (h : s.crc = none) (P : Params) (b : Byte) :
    crcUpdate P b s = (s, .refusedNoValue) := by
  rw [crcUpdate, h]

theorem crcUpdate_of_some {s : State} {c : Byte} (h : s.crc = some c) (P : Params) (b : Byte) :
    crcUpdate P b s = (s.setCrc (some (P.crcTable (c ^^^ b))), .done) := by
  rw [crcUpdate, h]
  rfl

theorem crcRead_of_none {s : State} (h : s.crc = none) : crcRead s = (s, .refusedNoValue) := by
  rw [crcRead, h]

theorem crcRead_of_some {s : State} {c : Byte} (h : s.crc = some c) : crcRead s = (s, .byte c) := by
  rw [crcRead, h]

/-- Settles O14: `crc8` is a fold of the table step. -/
theorem crc8Laws : Obligations.Crc8Laws := by
  unfold Obligations.Crc8Laws
  exact ⟨rfl, fun b => congrArg mfc.crcTable BitVec.zero_xor, fun s t => List.foldl_append⟩

/-- Settles O12: from what each operation does on a register that holds a value. -/
theorem crcOperations : Obligations.CrcOperations := by
  unfold Obligations.CrcOperations
  refine ⟨fun s => rfl, fun s c b h => ?_, fun s c h => ?_⟩
  · rw [exec_crcUpd, crcUpdate_of_some h, finish_pair]
    rfl
  · rw [exec_crcRd, crcRead_of_some h, finish_pair]
    rfl

/-- Settles O13: from what each operation does on a register that holds NONE. -/
theorem crcRefusesNone : Obligations.CrcRefusesNone := by
  unfold Obligations.CrcRefusesNone
  intro s b h
  rw [exec_crcUpd, exec_crcRd, crcUpdate_of_none h, crcRead_of_none h, finish_pair]
  exact ⟨rfl, rfl⟩

/-! ### The operations of the checksum unit (41_checksum.md section 3) -/

theorem exec_sumUpd (b : Byte) (s : State) : exec (.sumUpd b) s = finish (sumUpdate b s) := rfl
theorem exec_sumRd (s : State) : exec .sumRd s = finish (sumRead s) := rfl
theorem exec_sumChk (t : Byte) (s : State) : exec (.sumChk t) s = finish (sumCheck t s) := rfl

theorem sumUpdate_of_none {s : State} (h : s.sum = none) (b : Byte) : sumUpdate b s = (s, .refusedNoValue) := by
  rw [sumUpdate, h]

theorem sumUpdate_of_some {s : State} {a : Byte} (h : s.sum = some a) (b : Byte) :
    sumUpdate b s = (s.setSum (some (a - b)), .done) := by
  rw [sumUpdate, h]

theorem sumRead_of_none {s : State} (h : s.sum = none) : sumRead s = (s, .refusedNoValue) := by
  rw [sumRead, h]

theorem sumRead_of_some {s : State} {a : Byte} (h : s.sum = some a) : sumRead s = (s, .byte a) := by
  rw [sumRead, h]

theorem sumCheck_of_none {s : State} (h : s.sum = none) (t : Byte) : sumCheck t s = (s, .refusedNoValue) := by
  rw [sumCheck, h]

theorem sumCheck_of_some {s : State} {a : Byte} (h : s.sum = some a) (t : Byte) :
    sumCheck t s = (s, compareCode a t) := by
  rw [sumCheck, h]

/-- Subtraction of bytes is that of the integers they stand for, modulo 256 (00_scope.md R16). -/
theorem sub_eq_ofInt (a b : Byte) : a - b = BitVec.ofInt 8 ((a.toNat : Int) - (b.toNat : Int)) := by
  apply BitVec.eq_of_toNat_eq
  rw [BitVec.toNat_sub, BitVec.toNat_ofInt]
  omega

/-- Settles O16: from what each operation does on a register that holds a value. -/
theorem sumOperations : Obligations.SumOperations := by
  unfold Obligations.SumOperations
  refine ⟨fun s => rfl, fun s a b h => ?_, fun s a h => ?_, fun s a h => ?_, fun s a t h hne => ?_⟩
  · rw [exec_sumUpd, sumUpdate_of_some h, sub_eq_ofInt, finish_pair]
    rfl
  · rw [exec_sumRd, sumRead_of_some h, finish_pair]
    rfl
  · rw [exec_sumChk, sumCheck_of_some h, compareCode, if_pos rfl, finish_pair]
    rfl
  · rw [exec_sumChk, sumCheck_of_some h, compareCode, if_neg hne.symm, finish_pair]
    rfl

/-- Settles O17: from what each operation does on a register that holds NONE. -/
theorem sumRefusesNone : Obligations.SumRefusesNone := by
  unfold Obligations.SumRefusesNone
  intro s b h
  rw [exec_sumUpd, exec_sumRd, exec_sumChk, sumUpdate_of_none h, sumRead_of_none h, sumCheck_of_none h, finish_pair]
  exact ⟨rfl, rfl, rfl⟩

end Sys2Proof.Machine
end

section
/-! PROOFS. Single operations: the step, RESET, CFG.ID, the unlisted `op` values, the receive accumulator
(42_rx_accumulator.md) and the frame builder (44_frame_builder.md). -/

namespace Sys2Proof.Machine

open Config (Params mfc)

/-! ### The step, RESET and configuration -/

/-- Settles O2: by the cases of the pending list and of the decoded packet. -/
theorem stepRunsDecodedCommand : Obligations.StepRunsDecodedCommand := by
  unfold Obligations.StepRunsDecodedCommand
  refine ⟨fun s packet rest i hp hd => ?_, fun s hp => ?_, fun s packet rest r hp hd => ?_⟩
  · simp only [step, hp, hd]
  · simp only [step, hp]
  · simp only [step, hp, hd]

theorem exec_reset (s : State) : exec .reset s = finish (resetOp mfc s) := rfl
theorem exec_cfgId (id : Byte) (s : State) : exec (.cfgId id) s = finish (cfgId id s) := rfl
theorem exec_badOp (op : Byte) (s : State) : exec (.badOp op) s = .next (s.ret .refusedBadOp) := rfl

/-- Settles O8: RESET writes every register and the buffer, and nothing more. -/
theorem resetOperation : Obligations.ResetOperation := by
  unfold Obligations.ResetOperation
  exact fun s => exec_reset s

/-- Settles O9: the fields of the state after reset. -/
theorem resetStateValues : Obligations.ResetStateValues := by
  unfold Obligations.ResetStateValues
  exact ⟨rfl, rfl, rfl, rfl, rfl, rfl, rfl, rfl⟩

/-- Settles O10: CFG.ID writes one register. -/
theorem configureIdentifier : Obligations.ConfigureIdentifier := by
  unfold Obligations.ConfigureIdentifier
  exact fun id s => exec_cfgId id s

/-- Settles O11: an unlisted `op` value only returns its code. -/
theorem badOpRefused : Obligations.BadOpRefused := by
  unfold Obligations.BadOpRefused
  exact fun op s => exec_badOp op s

/-- Settles O52: nothing is in the buffer and nothing has been emitted. -/
theorem resetMeetsInvariant : Obligations.ResetMeetsInvariant := by
  unfold Obligations.ResetMeetsInvariant
  exact ⟨wf_reset, fun e he => absurd he List.not_mem_nil⟩

/-! ### The receive accumulator -/

theorem rxAppend_of_fits {s : State} {c : Bytes} (h : s.buf.length + c.length ≤ Config.bufCeiling) :
    rxAppend c s = (s.append c, .ok) := by
  rcases rxAppend_cases c s with ⟨_, e⟩ | ⟨hover, _⟩
  · exact e
  · omega

theorem rxAppend_of_overrun {s : State} {c : Bytes} (h : Config.bufCeiling < s.buf.length + c.length) :
    rxAppend c s = raise .overrun (s.buf ++ c) s := by
  rcases rxAppend_cases c s with ⟨hfits, _⟩ | ⟨_, e⟩
  · omega
  · exact e

/-- A chunk that fits is appended. -/
theorem exec_rxAppend_of_fits {s : State} {c : Bytes} (h : s.buf.length + c.length ≤ Config.bufCeiling) :
    exec (.rxAppend c) s = .next ((s.append c).ret .ok) := by
  rw [exec_rxAppend, rxAppend_of_fits h, finish_pair]

/-- Settles O22: the chunk fits, or RX.APPEND is fault entry. -/
theorem receiveAppend : Obligations.ReceiveAppend := by
  unfold Obligations.ReceiveAppend
  refine fun s chunk => ⟨exec_rxAppend_of_fits, fun h => ?_⟩
  rw [exec_rxAppend, rxAppend_of_overrun h, raise_eq, finish_pair]
  rfl

/-! ### The frame builder -/

theorem exec_txFrame (t : Byte) (p : Bytes) (s : State) : exec (.txFrame t p) s = finish (txFrame mfc t p s) := rfl

/-- TX.BODY is TX.FRAME of the body and its CRC byte (R132). -/
theorem exec_txBody (t : Byte) (b : Bytes) (s : State) :
    exec (.txBody t b) s = exec (.txFrame t (withCrc mfc b)) s := rfl

/-- TX.PROBE is TX.BODY of the probe body (R133). -/
theorem exec_txProbe (s : State) : exec .txProbe s = exec (.txBody mfc.ftGet Config.probeBody) s := rfl

theorem exec_txNqReply (s : State) : exec .txNqReply s = .next (nqReply mfc s).1 := rfl

/-- What the builder makes is what R131 lists. -/
theorem buildFrame_eq_outgoing (id ver t : Byte) (p : Bytes) : buildFrame mfc id ver t p = outgoing id ver t p := rfl

theorem outgoing_length (id ver t : Byte) (p : Bytes) : (outgoing id ver t p).length = p.length + 11 := by
  rw [← buildFrame_eq_outgoing, buildFrame, encodeFrame_length]

/-- A send without an identifier. -/
theorem exec_txFrame_of_none {s : State} (h : s.applianceId = none) (t : Byte) (p : Bytes) :
    exec (.txFrame t p) s = .next (s.ret .refusedNoId) := by
  rw [exec_txFrame, txFrame, h, finish_pair]

/-- A send too long for the length byte. -/
theorem exec_txFrame_of_tooLong {s : State} {a : Byte} (h : s.applianceId = some a) (t : Byte) {p : Bytes}
    (hp : 245 < p.length) : exec (.txFrame t p) s = .next (s.ret .refusedTooLong) := by
  rw [exec_txFrame]
  rcases txFrame_cases mfc t p s with ⟨hn, _⟩ | ⟨_, _, _, e⟩ | ⟨_, _, hfits, _⟩
  · cases h.symm.trans hn
  · rw [e, finish_pair]
  · omega

/-- A send that completes. -/
theorem exec_txFrame_of_fits {s : State} {a : Byte} (h : s.applianceId = some a) (t : Byte) {p : Bytes}
    (hp : p.length ≤ 245) :
    exec (.txFrame t p) s = .next ((s.emit (.tx (outgoing a s.protoVer t p))).ret .sent) := by
  rw [exec_txFrame]
  rcases txFrame_cases mfc t p s with ⟨hn, _⟩ | ⟨_, _, hlong, _⟩ | ⟨b, hb, _, e⟩
  · cases h.symm.trans hn
  · omega
  · obtain rfl : a = b := Option.some.inj (h.symm.trans hb)
    rw [e, finish_pair, buildFrame_eq_outgoing]

/-- A body of at most 244 bytes is sent. -/
theorem exec_txBody_of_fits {s : State} {a : Byte} (h : s.applianceId = some a) (t : Byte) {b : Bytes}
    (hb : b.length ≤ 244) :
    exec (.txBody t b) s = .next ((s.emit (.tx (outgoing a s.protoVer t (withCrc mfc b)))).ret .sent) := by
  rw [exec_txBody]
  exact exec_txFrame_of_fits h t (by rw [withCrc_length]; omega)

/-- The automatic reply adds its events to the stream and does nothing else. -/
theorem nqReply_eq (s : State) :
    (nqReply mfc s).1 = { s with out := s.out ++ replyEvents s.applianceId s.protoVer } := by
  rcases nqReply_cases mfc s with ⟨h, e⟩ | ⟨a, h, e⟩
  · simp only [e, h, replyEvents, List.append_nil]
    rw [← h]
  · simp only [e, h, replyEvents, buildFrame_eq_outgoing]
    rw [← h]
    rfl

/-- Settles O38: a send that completes. -/
theorem transmitFrame : Obligations.TransmitFrame := by
  unfold Obligations.TransmitFrame
  exact fun s a t p h hp => exec_txFrame_of_fits h t hp

/-- Settles O39: TX.BODY is TX.FRAME of one byte more. -/
theorem transmitBody : Obligations.TransmitBody := by
  unfold Obligations.TransmitBody
  exact ⟨fun s t b => exec_txBody t b s, fun s a t b h hb => exec_txBody_of_fits h t hb⟩

/-- Settles O40: the two refusals of TX.FRAME; a body has its CRC byte more. -/
theorem transmitRefusals : Obligations.TransmitRefusals := by
  unfold Obligations.TransmitRefusals
  refine ⟨fun s t p h => ⟨exec_txFrame_of_none h t p, exec_txFrame_of_none h t _⟩,
    fun s a t p h hp => exec_txFrame_of_tooLong h t hp, fun s a t b h hb => ?_⟩
  rw [exec_txBody]
  exact exec_txFrame_of_tooLong h t (by rw [withCrc_length]; omega)

/-- Settles O41: the probe body has 30 bytes, so its frame fits. -/
theorem transmitProbe : Obligations.TransmitProbe := by
  unfold Obligations.TransmitProbe
  refine ⟨decodeCommand_packet .txProbe [], exec_txProbe, fun s a h => ⟨_, ?_, rfl, exec_txBody_of_fits h _ ?_⟩,
    fun s h => exec_txFrame_of_none h _ _⟩
  · rw [outgoing_length]
    rfl
  · decide

/-- Settles O42: the reply is 20 bytes, its CRC byte and the frame around them. -/
theorem networkQueryReply : Obligations.NetworkQueryReply := by
  unfold Obligations.NetworkQueryReply
  refine ⟨fun s => by rw [exec_txNqReply, nqReply_eq], fun a v f hf => ?_, rfl, fun b h => ?_⟩
  · obtain rfl : f = _ := Event.tx.inj (List.mem_singleton.mp hf)
    simp [outgoing_length]
  · cases form_of_decodeCommand h

theorem actionBody_length (x : Config.Action) : (Config.actionBody x).length = 30 := by
  cases x with
  | heater on => cases on <;> rfl
  | _ => rfl

/-- Settles O44: every action body has 30 bytes, so its frame fits. -/
theorem actionFrames : Obligations.ActionFrames := by
  unfold Obligations.ActionFrames
  refine ⟨actionBody_length, rfl, fun x s a h => ⟨_, ?_, exec_txBody_of_fits h _ ?_⟩⟩
  · rw [outgoing_length, withCrc_length, actionBody_length]
  · rw [actionBody_length]
    decide

end Sys2Proof.Machine
end

section
/-! PROOFS. Acceptance of a frame and the parser's pass (43_frame_parser.md section 2): what it finds in a buffer, and
the statements about it. -/

namespace Sys2Proof.Machine

open Config (Params mfc headerSize)

/-! ### Acceptance (R116 to R118) -/

/-- Acceptance latches the version and adds the events of R116 to R118 to the stream. -/
theorem acceptFrame_eq (cls : FrameClass) (t : Byte) (w : FrameFields) (s : State) :
    acceptFrame mfc cls t w s =
      { s with protoVer := w.ver, out := s.out ++ acceptEvents s.applianceId t w cls } := by
  rcases acceptFrame_cases mfc cls t w s with ⟨rfl, h⟩ | ⟨hcls, h⟩
  · rw [h, nqReply_eq]
    simp [acceptEvents, frameEvent, State.emit, State.setProtoVer]
  · rw [h, acceptEvents, if_neg hcls]
    rfl

/-- Settles O31: the meaning of a wire row is the acceptance of its frame. -/
theorem wireFrameMeanings : Obligations.WireFrameMeanings := by
  unfold Obligations.WireFrameMeanings
  intro s w t
  simp only [← acceptFrame_eq]
  exact ⟨rfl, rfl, rfl, rfl, rfl, rfl⟩

/-! ### What the parser finds behind its first sentinel -/

theorem slice_append_left {s : Bytes} {j : Nat} (h : j ≤ s.length) (t : Bytes) (i : Nat) :
    slice (s ++ t) i j = slice s i j := by
  rw [slice, slice, List.take_append_of_le_length h]

theorem slice_append_right (g s : Bytes) (i j : Nat) :
    slice (g ++ s) (g.length + i) (g.length + j) = slice s i j := by
  rw [slice_eq_take_drop, slice_eq_take_drop, List.drop_length_add_append, Nat.add_sub_add_left]

theorem scan_of_find_none {P : Params} {m : Memory} (h : find m P.startByte = none) :
    scan P m = .wait .waitNoStart := by
  rw [scan, h]

theorem scan_of_read_none {P : Params} {m : Memory} {off : Nat} (hf : find m P.startByte = some off)
    (hh : Header.read (m.drop off) = none) : scan P m = .wait .waitHeader := by
  simp only [scan, hf, hh]

theorem scan_of_short {P : Params} {m : Memory} {off : Nat} {h : Header} (hf : find m P.startByte = some off)
    (hh : Header.read (m.drop off) = some h) (hl : h.length.toNat < 10) :
    scan P m = .corrupt .badLength (candidate m off h.length.toNat) := by
  simp [scan, hf, hh, malformedLength, hl]

theorem scan_of_complete {P : Params} {m : Memory} {off : Nat} {h : Header} {c : Byte}
    (hf : find m P.startByte = some off) (hh : Header.read (m.drop off) = some h) (hl : 10 ≤ h.length.toNat)
    (hc : m.read (off + h.length.toNat) = some c) :
    scan P m = if checksum (covered m off h.length.toNat) = c
      then .valid h.type (frameFields m off h.length.toNat h) (off + h.length.toNat + 1)
      else .corrupt .badSum (candidate m off h.length.toNat) := by
  simp [scan, hf, hh, malformedLength, hl, hc]

/-- Ten bytes behind the first sentinel are a header, with the length byte where R60 has it. -/
theorem exists_header {m : Memory} {off : Nat} {l : Byte} (hten : 10 ≤ m.length - off)
    (hl : m.read (off + 1) = some l) : ∃ h, Header.read (m.drop off) = some h ∧ h.length = l := by
  cases hh : Header.read (m.drop off) with
  | none =>
    have := Header.read_eq_none.mp hh
    rw [List.length_drop] at this
    omega
  | some h => exact ⟨h, rfl, Option.some.inj ((read_length_of_header hh).symm.trans hl)⟩

/-- A complete candidate, `H` without its last byte and `c` that byte, behind bytes without a sentinel: its checksum
decides (R115), whatever follows. -/
theorem scan_candidate {P : Params} {g H more : Bytes} {c : Byte} {d : Header} (hg : ∀ b ∈ g, b ≠ P.startByte)
    (hd : Header.read H = some d) (hstart : d.start = P.startByte) (hlen : H.length = d.length.toNat) :
    scan P (g ++ (H ++ [c]) ++ more) = if checksum (H.drop 1) = c
      then .valid d.type { id := d.id, sync := d.sync, ver := d.ver, payload := H.drop headerSize }
        (g.length + H.length + 1)
      else .corrupt .badSum (H ++ [c]) := by
  have hten : 10 ≤ H.length := by
    by_contra hlt
    rw [Header.read_eq_none.mpr (by omega)] at hd
    cases hd
  have hfind : find (g ++ (H ++ [c]) ++ more) P.startByte = some g.length := by
    obtain ⟨s, rfl⟩ := Header.read_eq_some hd
    rw [hstart, List.append_assoc]
    exact find_append_cons hg
  have hread : Header.read ((g ++ (H ++ [c]) ++ more).drop g.length) = some d := by
    rw [List.append_assoc, List.drop_left, List.append_assoc]
    exact Header.read_append hd _
  have hslice : ∀ i j, j ≤ H.length + 1 →
      slice (g ++ (H ++ [c]) ++ more) (g.length + i) (g.length + j) = slice (H ++ [c]) i j := fun i j hj => by
    rw [List.append_assoc, slice_append_right, slice_append_left (by simpa using hj)]
  have hbody : ∀ i, slice (H ++ [c]) i H.length = H.drop i := fun i => by
    rw [slice, List.take_left]
  have hc : Memory.read (g ++ (H ++ [c]) ++ more) (g.length + d.length.toNat) = some c := by
    rw [List.append_assoc, Memory.read_append_right, Memory.read_append_left _ _ _ (by simp [hlen]), ← hlen,
      Memory.read, List.getElem?_concat_length]
  have hwhole : slice (g ++ (H ++ [c]) ++ more) g.length (g.length + (H.length + 1)) = H ++ [c] :=
    (hslice 0 (H.length + 1) le_rfl).trans (List.take_of_length_le (by simp))
  rw [scan_of_complete hfind hread (by omega) hc]
  simp only [covered, candidate, frameFields, ← hlen, Nat.add_assoc]
  rw [hslice 1 H.length (by omega), hslice headerSize H.length (by omega), hbody, hbody, hwhole]

/-- An encoded frame is found as it was written. -/
theorem scan_encodeFrame {P : Params} {g more : Bytes} {t : Byte} {w : FrameFields} (hg : ∀ b ∈ g, b ≠ P.startByte)
    (hw : w.wf = true) :
    scan P (g ++ encodeFrame P t w ++ more) = .valid t w (g ++ encodeFrame P t w).length := by
  have hread : Header.read (frameHead P t w) = some (headerOf P t w) := by
    simpa using read_frameHead P t w []
  have h := scan_candidate (c := checksum ((frameHead P t w).drop 1)) (more := more) hg hread rfl
    (by rw [frameHead_length, headerOf_length_toNat P t hw])
  rw [if_pos rfl, ← encodeFrame] at h
  rw [h, List.length_append, encodeFrame_length, frameHead_length]
  rfl

/-! ### The statements about one pass -/

theorem exec_parseStep_of_wait {s : State} {r : ResultCode} (h : scan mfc s.buf = .wait r) :
    exec .parseStep s = .next (s.ret r) := by
  rw [exec_parseStep, parseStep_wait h, finish_pair]

theorem exec_parseStep_of_corrupt {s : State} {c : Cause} {b : Bytes} (h : scan mfc s.buf = .corrupt c b) :
    exec .parseStep s = .next { s with
      buf := [], out := s.out ++ [.log c b], returned := s.returned ++ [c.result] } := by
  rw [exec_parseStep, parseStep_corrupt h, raise_eq, finish_pair]
  rfl

/-- PARSE.STEP on an encoded frame behind garbage: its acceptance, and the removal of both (R116(d), R122). -/
theorem exec_parseStep_encodeFrame {s : State} {g more : Bytes} {t : Byte} {w : FrameFields}
    (hbuf : s.buf = g ++ encodeFrame mfc t w ++ more) (hg : NoSentinel g) (hw : w.wf = true) :
    exec .parseStep s = .next { acceptFrame mfc (classify mfc t) t w s with
      buf := more, returned := s.returned ++ [.gotFrame] } := by
  have hscan : scan mfc s.buf = .valid t w (g ++ encodeFrame mfc t w).length := hbuf ▸ scan_encodeFrame hg hw
  rw [exec_parseStep, parseStep_valid hscan, finish_pair, State.ret, State.removeFront, acceptFrame_buf,
    acceptFrame_returned, hbuf, List.drop_left]

theorem scan_of_parseStep_wait {P : Params} {s t : State} {r : ResultCode} (h : parseStep P s = (t, r))
    (hr : r.isWait = true) : scan P s.buf = .wait r ∧ s = t := by
  cases hs : scan P s.buf with
  | wait q =>
    cases (parseStep_wait hs).symm.trans h
    exact ⟨rfl, rfl⟩
  | corrupt c b =>
    cases (parseStep_corrupt hs).symm.trans h
    cases c <;> cases hr
  | valid ty w k =>
    cases (parseStep_valid hs).symm.trans h
    cases hr

/-- Settles O24: without a sentinel the first test ends the scan. -/
theorem parserWaitsForSentinel : Obligations.ParserWaitsForSentinel := by
  unfold Obligations.ParserWaitsForSentinel
  exact fun s h => exec_parseStep_of_wait (scan_of_find_none (find_eq_none.mpr h))

/-- Settles O25: fewer than ten bytes are no header. -/
theorem parserWaitsForHeader : Obligations.ParserWaitsForHeader := by
  unfold Obligations.ParserWaitsForHeader
  intro s off h hshort
  have hread : Header.read (s.buf.drop off) = none := Header.read_eq_none.mpr (by simpa using hshort)
  exact exec_parseStep_of_wait (scan_of_read_none h.find_eq hread)

/-- Settles O26: the length test comes before anything behind the header is looked at. -/
theorem parserRejectsShortLength : Obligations.ParserRejectsShortLength := by
  unfold Obligations.ParserRejectsShortLength
  intro s off l h hten hl hshort
  obtain ⟨d, hd, rfl⟩ := exists_header hten hl
  rw [exec_parseStep_of_corrupt (scan_of_short h.find_eq hd hshort), candidate, slice_eq_take_drop, Nat.add_assoc,
    Nat.add_sub_cancel_left]
  rfl

/-- A complete candidate with a wrong last byte is logged and the buffer discarded, whatever follows it (R115). -/
theorem exec_parseStep_of_wrongChecksum {s : State} {g rest more : Bytes} {l c : Byte}
    (hbuf : s.buf = g ++ (mfc.startByte :: l :: rest ++ [c]) ++ more) (hg : NoSentinel g) (hten : 10 ≤ l.toNat)
    (hlen : rest.length + 2 = l.toNat) (hsum : checksum (l :: rest) ≠ c) :
    exec .parseStep s = .next { s with
      buf := [], out := s.out ++ [.log .badSum (mfc.startByte :: l :: rest ++ [c])],
      returned := s.returned ++ [.corruptSum] } := by
  have hH : (mfc.startByte :: l :: rest).length = l.toNat := hlen
  cases hd : Header.read (mfc.startByte :: l :: rest) with
  | none => exact absurd (Header.read_eq_none.mp hd) (by omega)
  | some d =>
    obtain ⟨tail, htail⟩ := Header.read_eq_some hd
    obtain ⟨hstart, hl, _⟩ : mfc.startByte = d.start ∧ l = d.length ∧ _ := by simpa using htail
    have hscan := scan_candidate (c := c) (more := more) hg hd hstart.symm (hl ▸ hH)
    rw [if_neg (by exact hsum), ← hbuf] at hscan
    exact exec_parseStep_of_corrupt hscan

/-- Settles O29: the bytes listed are the encoding of their fields, since the length byte counts them. -/
theorem parserAcceptsValidFrame : Obligations.ParserAcceptsValidFrame := by
  unfold Obligations.ParserAcceptsValidFrame
  intro s garbage payload more l a y3 y4 y5 y6 y7 v t hbuf hg hlen
  obtain rfl := eq_lengthByte hlen
  have hw : (FrameFields.mk a ⟨y3, y4, y5, y6, y7⟩ v payload).wf = true := by
    have := (BitVec.ofNat 8 (payload.length + headerSize)).isLt
    exact FrameFields.wf_iff.mpr (show payload.length ≤ 245 by omega)
  have hframe : s.buf = garbage ++ encodeFrame mfc t ⟨a, ⟨y3, y4, y5, y6, y7⟩, v, payload⟩ ++ more := hbuf
  rw [exec_parseStep_encodeFrame hframe hg hw, acceptFrame_eq]

/-- Settles O32: the buffer holds the encoding of the frame whose acceptance the instruction is. -/
theorem parserRunsWireFrame : Obligations.ParserRunsWireFrame := by
  unfold Obligations.ParserRunsWireFrame
  intro s t garbage f more i hwf hform henc hbuf hg hexec
  obtain ⟨ty, w, hrow⟩ := exists_isWireRow hwf hform
  obtain rfl : encodeFrame mfc ty w = f := Option.some.inj (hrow.encode_eq.symm.trans henc)
  obtain rfl := Host.Outcome.next.inj ((hrow.exec_eq s).symm.trans hexec)
  exact exec_parseStep_encodeFrame hbuf hg hrow.wf

/-- Settles O33: only a waiting scan answers a wait code, and it reads nothing but the buffer. -/
theorem waitingChangesNothing : Obligations.WaitingChangesNothing := by
  unfold Obligations.WaitingChangesNothing
  intro s t r h hret hwait
  obtain ⟨u, hu, rfl⟩ := parseStep_of_exec h hret
  obtain ⟨hscan, rfl⟩ := scan_of_parseStep_wait hu hwait
  exact ⟨rfl, exec_parseStep_of_wait hscan⟩

/-- Settles O43: what TX.FRAME sends is an encoded frame, and a frame fits an empty buffer. -/
theorem buildThenParse : Obligations.BuildThenParse := by
  unfold Obligations.BuildThenParse
  intro s r a t p hid hp hempty
  refine ⟨outgoing a s.protoVer t p, exec_txFrame_of_fits hid t hp, ?_⟩
  have hfits : r.buf.length + (outgoing a s.protoVer t p).length ≤ Config.bufCeiling := by
    rw [hempty, outgoing_length, List.length_nil, Config.bufCeiling]
    omega
  have hbuf : ((r.append (outgoing a s.protoVer t p)).ret .ok).buf =
      [] ++ encodeFrame mfc t ⟨a, ⟨0, 0, 0, 0, 0⟩, s.protoVer, p⟩ ++ [] := by
    simp [hempty, ← buildFrame_eq_outgoing, buildFrame]
  have hparse := exec_parseStep_encodeFrame hbuf (by simp [NoSentinel]) (FrameFields.wf_iff.mpr hp)
  rw [acceptFrame_eq] at hparse
  simp [execAll, exec_rxAppend_of_fits hfits, hparse, hempty]

end Sys2Proof.Machine
end

section
/-! PROOFS. What an operation can do, said once, and what follows of every operation: who writes a register, the buffer
and the event stream, and what a refusal leaves (10_state.md, 20_memory.md). -/

namespace Sys2Proof.Machine

open Config (Params mfc)

theorem Accepts.many {s t : State} {k : Nat} {es : List Event} (h : Accepts s t k es) : AcceptsMany s t k es := by
  simpa using AcceptsMany.cons h (.zero t)

/-- What an operation can have done to the state when it ends: every arm of `exec`, with the operations that can end
so. -/
inductive Effect (i : Instr) (s : State) : State → Prop
  /-- A refusal. -/
  | refuse (r : ResultCode) (hr : r.isRefusal = true) : Effect i s (s.ret r)
  /-- A register read or compared. -/
  | answer (r : ResultCode) (hi : i.isUnit = true) (hr : r.isRefusal = false) (hf : r.isFault = false) :
      Effect i s (s.ret r)
  | setCrc (v : Option Byte) (hi : i = .crcClr ∨ ∃ b, i = .crcUpd b) : Effect i s ((s.setCrc v).ret .done)
  | setSum (v : Option Byte) (hi : i = .sumClr ∨ ∃ b, i = .sumUpd b) : Effect i s ((s.setSum v).ret .done)
  | setId (a : Byte) (hi : i = .cfgId a) : Effect i s ((s.setApplianceId (some a)).ret .done)
  | reset (hi : i = .reset) : Effect i s ((resetOp mfc s).1.ret .done)
  | append (c : Bytes) (hi : i = .rxAppend c) (hfits : s.buf.length + c.length ≤ Config.bufCeiling) :
      Effect i s ((s.append c).ret .ok)
  | overrun (c : Bytes) (hi : i = .rxAppend c) (hover : Config.bufCeiling < s.buf.length + c.length) :
      Effect i s ((raise .overrun (s.buf ++ c) s).1.ret .overrun)
  | flush (hi : i = .rxFlush) : Effect i s (flush s)
  | send (a ty : Byte) (p : Bytes) (hi : i = .txProbe ∨ (∃ ty p, i = .txFrame ty p) ∨ ∃ ty b, i = .txBody ty b)
      (hp : p.length ≤ 245) : Effect i s ((s.emit (.tx (outgoing a s.protoVer ty p))).ret .sent)
  | reply (hi : i = .txNqReply) : Effect i s { s with out := s.out ++ replyEvents s.applianceId s.protoVer }
  | accept (cls : FrameClass) (ty : Byte) (w : FrameFields) (hi : i.form = .wire) : Effect i s
      { s with protoVer := w.ver, out := s.out ++ acceptEvents s.applianceId ty w cls }
  /-- The parser has accepted some frames and then waits, or PARSE.STEP has accepted one. -/
  | parse (u : State) (k : Nat) (es : List Event) (r : ResultCode) (hi : i = .parseStep ∨ i = .parseRun)
      (hu : AcceptsMany s u k es) (hr : r.isRefusal = false) : Effect i s (u.ret r)
  /-- The parser has accepted some frames and then enters a fault. -/
  | corrupt (u : State) (k : Nat) (es : List Event) (c : Cause) (b : Bytes) (hi : i = .parseStep ∨ i = .parseRun)
      (hu : AcceptsMany s u k es) : Effect i s ((raise c b u).1.ret c.result)

theorem ResultCode.isRefusal_eq_false_of_isWait {r : ResultCode} (h : r.isWait = true) : r.isRefusal = false := by
  cases r with
  | waitNoStart | waitHeader | waitBody => rfl
  | _ => cases h

theorem effect_of_txFrame {i : Instr} (s : State) (ty : Byte) (p : Bytes)
    (hi : i = .txProbe ∨ (∃ ty p, i = .txFrame ty p) ∨ ∃ ty b, i = .txBody ty b) :
    Effect i s ((txFrame mfc ty p s).1.ret (txFrame mfc ty p s).2) := by
  rcases txFrame_cases mfc ty p s with ⟨_, e⟩ | ⟨_, _, _, e⟩ | ⟨a, _, hp, e⟩ <;> rw [e]
  · exact .refuse _ rfl
  · exact .refuse _ rfl
  · exact .send a ty p hi hp

theorem effect_of_acceptFrame {i : Instr} (s : State) (cls : FrameClass) (ty : Byte) (w : FrameFields)
    (hi : i.form = .wire) : Effect i s (acceptFrame mfc cls ty w s) := by
  rw [acceptFrame_eq]
  exact .accept cls ty w hi

theorem effect_of_parseStep (s : State) :
    Effect .parseStep s ((parseStep mfc s).1.ret (parseStep mfc s).2) := by
  rcases parseStep_effect mfc s with ⟨r, hr, e⟩ | ⟨c, b, _, e⟩ | ⟨u, k, es, e, ha⟩ <;> rw [e]
  · exact .parse s 0 [] r (.inl rfl) (.zero s) (ResultCode.isRefusal_eq_false_of_isWait hr)
  · exact .corrupt s 0 [] c b (.inl rfl) (.zero s)
  · exact .parse u k es _ (.inl rfl) ha.many rfl

theorem effect_of_parseRun (s : State) :
    Effect .parseRun s ((parseRun mfc s).1.ret (parseRun mfc s).2) := by
  obtain ⟨u, k, es, hu, hrun, ⟨r, hr, e⟩ | ⟨c, b, _, e⟩⟩ := parseRun_effect mfc s <;> rw [hrun, e]
  · exact .parse u k es r (.inr rfl) hu (ResultCode.isRefusal_eq_false_of_isWait hr)
  · exact .corrupt u k es c b (.inr rfl) hu

theorem compareCode_isRefusal_eq_false (a t : Byte) : (compareCode a t).isRefusal = false := by
  unfold compareCode
  split <;> rfl

/-- Every operation has one of these effects. -/
theorem exec_effect {i : Instr} {s t : State} (h : exec i s = .next t) : Effect i s t := by
  cases i with
  | reset => cases h; exact .reset rfl
  | cfgId a => cases h; exact .setId a rfl
  | crcClr => cases h; exact .setCrc _ (.inl rfl)
  | crcUpd b =>
    rw [exec_crcUpd] at h
    rcases crcUpdate_cases mfc b s with ⟨_, e⟩ | ⟨c, _, e⟩ <;> rw [e] at h <;> cases h
    · exact .refuse _ rfl
    · exact .setCrc _ (.inr ⟨b, rfl⟩)
  | crcRd =>
    rw [exec_crcRd] at h
    rcases crcRead_cases s with ⟨_, e⟩ | ⟨c, _, e⟩ <;> rw [e] at h <;> cases h
    · exact .refuse _ rfl
    · exact .answer _ rfl rfl rfl
  | sumClr => cases h; exact .setSum _ (.inl rfl)
  | sumUpd b =>
    rw [exec_sumUpd] at h
    rcases sumUpdate_cases b s with ⟨_, e⟩ | ⟨c, _, e⟩ <;> rw [e] at h <;> cases h
    · exact .refuse _ rfl
    · exact .setSum _ (.inr ⟨b, rfl⟩)
  | sumRd =>
    rw [exec_sumRd] at h
    rcases sumRead_cases s with ⟨_, e⟩ | ⟨c, _, e⟩ <;> rw [e] at h <;> cases h
    · exact .refuse _ rfl
    · exact .answer _ rfl rfl rfl
  | sumChk b =>
    rw [exec_sumChk] at h
    rcases sumCheck_cases b s with ⟨_, e⟩ | ⟨c, _, e⟩ <;> rw [e] at h <;> cases h
    · exact .refuse _ rfl
    · exact .answer _ rfl (compareCode_isRefusal_eq_false _ _) (compareCode_isFault_eq_false _ _)
  | rxAppend c =>
    rw [exec_rxAppend] at h
    rcases rxAppend_cases c s with ⟨hfits, e⟩ | ⟨hover, e⟩ <;> rw [e] at h <;> cases h
    · exact .append c rfl hfits
    · exact .overrun c rfl hover
  | parseStep => cases h; exact effect_of_parseStep s
  | parseRun => cases h; exact effect_of_parseRun s
  | txFrame ty p => cases h; exact effect_of_txFrame s ty p (.inr (.inl ⟨ty, p, rfl⟩))
  | txBody ty b => cases h; exact effect_of_txFrame s ty _ (.inr (.inr ⟨ty, b, rfl⟩))
  | txProbe => cases h; exact effect_of_txFrame s _ _ (.inl rfl)
  | rxFlush => cases h; exact .flush rfl
  | txNqReply =>
    cases h
    rw [nqReply_eq]
    exact .reply rfl
  | badOp op => cases h; exact .refuse _ rfl
  | frameAny | frameNetq | frameSet | frameGet | frameNotify | frameOther =>
    cases h
    exact effect_of_acceptFrame s _ _ _ rfl

section Writers

variable {i : Instr} {s t : State}

/-! ### The registers (10_state.md section 1) -/

theorem Effect.crc_eq (h : Effect i s t) : t.crc = s.crc ∨ i = .crcClr ∨ (∃ b, i = .crcUpd b) ∨ i = .reset := by
  cases h with
  | setCrc v hi => exact .inr (hi.imp_right .inl)
  | reset hi => exact .inr (.inr (.inr hi))
  | parse u k es r hi hu | corrupt u k es c b hi hu => exact .inl hu.rest.crc
  | _ => exact .inl rfl

theorem Effect.sum_eq (h : Effect i s t) : t.sum = s.sum ∨ i = .sumClr ∨ (∃ b, i = .sumUpd b) ∨ i = .reset := by
  cases h with
  | setSum v hi => exact .inr (hi.imp_right .inl)
  | reset hi => exact .inr (.inr (.inr hi))
  | parse u k es r hi hu | corrupt u k es c b hi hu => exact .inl hu.rest.sum
  | _ => exact .inl rfl

theorem Effect.protoVer_eq (h : Effect i s t) :
    t.protoVer = s.protoVer ∨ i = .parseStep ∨ i = .parseRun ∨ i = .reset ∨ i.form = .wire := by
  cases h with
  | reset hi => exact .inr (.inr (.inr (.inl hi)))
  | accept cls ty w hi => exact .inr (.inr (.inr (.inr hi)))
  | parse u k es r hi | corrupt u k es c b hi => exact .inr (hi.imp_right .inl)
  | _ => exact .inl rfl

theorem Effect.applianceId_eq (h : Effect i s t) :
    t.applianceId = s.applianceId ∨ (∃ a, i = .cfgId a) ∨ i = .reset := by
  cases h with
  | setId a hi => exact .inr (.inl ⟨a, hi⟩)
  | reset hi => exact .inr (.inr hi)
  | parse u k es r hi hu | corrupt u k es c b hi hu => exact .inl hu.rest.applianceId
  | _ => exact .inl rfl

theorem Effect.pending_eq (h : Effect i s t) : t.pending = s.pending := by
  cases h with
  | parse u k es r hi hu | corrupt u k es c b hi hu => exact hu.rest.pending
  | _ => rfl

/-! ### The buffer (20_memory.md R46) -/

theorem Effect.buf_eq (h : Effect i s t) :
    t.buf = s.buf ∨ (∃ c, i = .rxAppend c ∧ t.buf = s.buf ++ c) ∨
    ((i = .parseStep ∨ i = .parseRun) ∧ ∃ k, 0 < k ∧ k ≤ s.buf.length ∧ t.buf = s.buf.drop k) ∨
    ((i = .parseStep ∨ i = .parseRun ∨ i = .reset ∨ i = .rxFlush ∨ ∃ c, i = .rxAppend c) ∧ t.buf = []) := by
  cases h with
  | append c hi => exact .inr (.inl ⟨c, hi, rfl⟩)
  | reset hi => exact .inr (.inr (.inr ⟨.inr (.inr (.inl hi)), rfl⟩))
  | flush hi => exact .inr (.inr (.inr ⟨.inr (.inr (.inr (.inl hi))), rfl⟩))
  | overrun c hi => exact .inr (.inr (.inr ⟨.inr (.inr (.inr (.inr ⟨c, hi⟩))), rfl⟩))
  | corrupt u k es c b hi => exact .inr (.inr (.inr ⟨hi.imp_right .inl, rfl⟩))
  | parse u k es r hi hu =>
    rcases Nat.eq_zero_or_pos k with rfl | hk
    · exact .inl hu.buf
    · exact .inr (.inr (.inl ⟨hi, k, hk, hu.high, hu.buf⟩))
  | _ => exact .inl rfl

/-! ### The events (10_state.md R26) -/

/-- The operation `i` has added `es` to the stream: `proto_ver` follows the accepted frames among them, and each kind of
event has its sources. -/
structure Emits (i : Instr) (s t : State) (es : List Event) : Prop where
  out : t.out = s.out ++ es
  ver : i ≠ .reset → t.protoVer = lastVersion s.protoVer es
  log : (∃ e ∈ es, e.isLog = true) → i = .parseStep ∨ i = .parseRun ∨ ∃ c, i = .rxAppend c
  frame : (∃ e ∈ es, e.isFrame = true) → i = .parseStep ∨ i = .parseRun ∨ i.form = .wire
  tx : (∃ e ∈ es, e.isTx = true) → i = .parseStep ∨ i = .parseRun ∨ i.form = .wire ∨ i = .txNqReply ∨
    i = .txProbe ∨ (∃ ty p, i = .txFrame ty p) ∨ ∃ ty b, i = .txBody ty b

theorem Emits.nothing (hout : t.out = s.out) (hver : i ≠ .reset → t.protoVer = s.protoVer) : Emits i s t [] where
  out := by rw [hout, List.append_nil]
  ver := hver
  log := by simp
  frame := by simp
  tx := by simp

/-- The parser may emit any kind of event. -/
theorem Emits.parser {es : List Event} (hi : i = .parseStep ∨ i = .parseRun) (hout : t.out = s.out ++ es)
    (hver : t.protoVer = lastVersion s.protoVer es) : Emits i s t es where
  out := hout
  ver := fun _ => hver
  log := fun _ => hi.imp_right .inl
  frame := fun _ => hi.imp_right .inl
  tx := fun _ => hi.imp_right .inl

theorem isTx_of_mem_replyEvents {a : Option Byte} {v : Byte} {e : Event} (h : e ∈ replyEvents a v) :
    e.isTx = true := by
  cases a with
  | none => cases h
  | some a => rw [List.mem_singleton.mp h]; rfl

theorem lastVersion_of_isTx {v : Byte} {es : List Event} (h : ∀ e ∈ es, e.isTx = true) : lastVersion v es = v := by
  induction es with
  | nil => rfl
  | cons e es ih =>
    cases e with
    | tx b => exact ih fun e he => h e (List.mem_cons_of_mem _ he)
    | frame | log => cases h _ List.mem_cons_self

theorem lastVersion_append (v : Byte) (es fs : List Event) :
    lastVersion v (es ++ fs) = lastVersion (lastVersion v es) fs := List.foldl_append

/-- What acceptance emits: its `EV_FRAME`, and sent frames only after it. -/
theorem acceptEvents_eq (a : Option Byte) (ty : Byte) (w : FrameFields) (cls : FrameClass) :
    ∃ es, acceptEvents a ty w cls = .frame w.id w.sync w.ver ty w.payload cls :: es ∧ ∀ e ∈ es, e.isTx = true := by
  refine ⟨_, rfl, fun e he => ?_⟩
  split at he
  · exact isTx_of_mem_replyEvents he
  · cases he

theorem Event.isLog_isFrame_of_isTx {e : Event} (h : e.isTx = true) : e.isLog = false ∧ e.isFrame = false := by
  cases e with
  | tx b => exact ⟨rfl, rfl⟩
  | frame | log => cases h

theorem Effect.emits (h : Effect i s t) : ∃ es, Emits i s t es := by
  cases h with
  | reset hi => exact ⟨[], .nothing rfl fun hne => absurd hi hne⟩
  | overrun c hi =>
    exact ⟨[.log .overrun (s.buf ++ c)], rfl, fun _ => rfl, fun _ => .inr (.inr ⟨c, hi⟩), by simp [Event.isFrame],
      by simp [Event.isTx]⟩
  | send a ty p hi =>
    exact ⟨[.tx (outgoing a s.protoVer ty p)], rfl, fun _ => rfl, by simp [Event.isLog], by simp [Event.isFrame],
      fun _ => .inr (.inr (.inr (.inr hi)))⟩
  | reply hi =>
    have htx : ∀ e ∈ replyEvents s.applianceId s.protoVer, e.isTx = true := fun e => isTx_of_mem_replyEvents
    refine ⟨replyEvents s.applianceId s.protoVer, rfl, fun _ => (lastVersion_of_isTx htx).symm, ?_, ?_,
      fun _ => .inr (.inr (.inr (.inl hi)))⟩
    · rintro ⟨e, he, hlog⟩
      cases (Event.isLog_isFrame_of_isTx (htx e he)).1.symm.trans hlog
    · rintro ⟨e, he, hframe⟩
      cases (Event.isLog_isFrame_of_isTx (htx e he)).2.symm.trans hframe
  | accept cls ty w hi =>
    obtain ⟨es, hes, htx⟩ := acceptEvents_eq s.applianceId ty w cls
    refine ⟨_, rfl, fun _ => ?_, ?_, fun _ => .inr (.inr hi), fun _ => .inr (.inr (.inl hi))⟩
    · rw [hes]
      exact (lastVersion_of_isTx htx).symm
    · rw [hes]
      rintro ⟨e, he, hlog⟩
      rcases List.mem_cons.mp he with rfl | he
      · cases hlog
      · cases (Event.isLog_isFrame_of_isTx (htx e he)).1.symm.trans hlog
  | parse u k es r hi hu => exact ⟨es, .parser hi hu.out hu.ver⟩
  | corrupt u k es c b hi hu =>
    refine ⟨es ++ [.log c b], .parser hi ?_ ?_⟩
    · rw [← List.append_assoc, ← hu.out]
      rfl
    · rw [lastVersion_append, ← hu.ver]
      rfl
  | _ => exact ⟨[], .nothing rfl fun _ => rfl⟩

/-! ### The code returned (10_state.md R29) -/

theorem Effect.code (h : Effect i s t) : t.returned = s.returned ∨ ∃ r, t.returned = s.returned ++ [r] ∧
    (r.isRefusal = true → t = s.ret r) ∧ (r = .corruptSum → i = .parseStep ∨ i = .parseRun) := by
  cases h with
  | refuse r hr => exact .inr ⟨r, rfl, fun _ => rfl, by rintro rfl; cases hr⟩
  | answer r hi hr hf => exact .inr ⟨r, rfl, fun _ => rfl, by rintro rfl; cases hf⟩
  | flush | reply | accept => exact .inl rfl
  | parse u k es r hi hu hr =>
    exact .inr ⟨r, congrArg (· ++ [r]) hu.rest.returned, fun h => (nomatch hr.symm.trans h), fun _ => hi⟩
  | corrupt u k es c b hi hu =>
    refine .inr ⟨c.result, congrArg (· ++ [c.result]) hu.rest.returned, fun h => ?_, fun _ => hi⟩
    cases c <;> cases h
  | setCrc | setSum | setId | reset | append | overrun | send =>
    exact .inr ⟨_, rfl, (nomatch ·), (nomatch ·)⟩

end Writers

/-! ### The statements -/

/-- Settles O45: register by register. -/
theorem registerWriters : Obligations.RegisterWriters := by
  unfold Obligations.RegisterWriters
  intro i s t h
  have he := exec_effect h
  exact ⟨he.crc_eq.resolve_left, he.sum_eq.resolve_left, he.protoVer_eq.resolve_left, he.applianceId_eq.resolve_left⟩

/-- Settles O46: what is read of the buffer after each of the four changes. -/
theorem bufferWriters : Obligations.BufferWriters := by
  unfold Obligations.BufferWriters
  intro i s t h
  rcases (exec_effect h).buf_eq with e | ⟨c, hi, e⟩ | ⟨hi, k, hk, hle, e⟩ | ⟨hi, e⟩
  · exact .inl fun a => by rw [e]
  · exact .inr (.inl ⟨c, hi, fun a => by rw [e]⟩)
  · exact .inr (.inr (.inl ⟨hi, k, hk, hle, fun a => by rw [e, Memory.read_drop, Nat.add_comm]⟩))
  · exact .inr (.inr (.inr ⟨hi, fun a => by rw [e, Memory.read_nil]⟩))

/-- Settles O23: the buffer's writers are known, and no packet decodes to an internal operation. -/
theorem flushEmptiesBuffer : Obligations.FlushEmptiesBuffer := by
  unfold Obligations.FlushEmptiesBuffer
  refine ⟨fun s => rfl, rfl, fun b h => ?_, fun i s t h hne hempty => ?_⟩
  · cases form_of_decodeCommand h
  · rcases (exec_effect h).buf_eq with e | ⟨c, hi, _⟩ | ⟨hi, _⟩ | ⟨hi, _⟩
    · exact absurd (e.symm.trans hempty) hne
    · exact .inr (.inl ⟨c, hi⟩)
    · tauto
    · tauto

/-- Settles O28: the trailing byte fails the checksum's test, and only the parser's effects answer that code. -/
theorem parserRejectsWrongChecksum : Obligations.ParserRejectsWrongChecksum := by
  unfold Obligations.ParserRejectsWrongChecksum
  refine ⟨fun s g rest more l c => exec_parseStep_of_wrongChecksum, fun i s t h hret => ?_⟩
  rcases (exec_effect h).code with e | ⟨r, e, _, hcorrupt⟩
  · simp [e] at hret
  · exact hcorrupt (by simpa [e] using hret)

/-- Settles O47: the events an operation emits have its kinds. -/
theorem eventSources : Obligations.EventSources := by
  unfold Obligations.EventSources
  intro i s t h
  have he := exec_effect h
  obtain ⟨es, hes⟩ := he.emits
  exact ⟨he.pending_eq, es, hes.out, hes.log, hes.frame, hes.tx⟩

/-- Settles O48: the version follows the accepted frames among the events emitted. -/
theorem protoVerIsLastAccepted : Obligations.ProtoVerIsLastAccepted := by
  unfold Obligations.ProtoVerIsLastAccepted
  intro i s t h hne
  obtain ⟨es, hes⟩ := (exec_effect h).emits
  exact ⟨es, hes.out, hes.ver hne⟩

/-- Settles O49: an operation that answers a refusal has only returned it. -/
theorem refusalsChangeNothing : Obligations.RefusalsChangeNothing := by
  unfold Obligations.RefusalsChangeNothing
  intro i s t r h hret href
  rcases (exec_effect h).code with e | ⟨q, e, hrefuse, _⟩
  · simp [e] at hret
  · obtain rfl : q = r := by simpa [e] using hret
    exact hrefuse href

end Sys2Proof.Machine
end

section
/-! PROOFS. What every step keeps: the buffer within its ceiling and the events well-formed (10_state.md R24, R26,
42_rx_accumulator.md R103); and the end of PARSE.RUN (43_frame_parser.md R120). -/

namespace Sys2Proof.Machine

open Config (Params mfc headerSize)

/-! ### The events that are emitted are well-formed -/

theorem wf_outgoing (a v ty : Byte) {p : Bytes} (hp : p.length ≤ 245) : (Event.tx (outgoing a v ty p)).wf mfc := by
  rw [← buildFrame_eq_outgoing]
  exact ⟨ty, _, readFrame_encodeFrame (FrameFields.wf_iff.mpr hp)⟩

theorem wf_of_mem_replyEvents {a : Option Byte} {v : Byte} {e : Event} (h : e ∈ replyEvents a v) : e.wf mfc := by
  cases a with
  | none => cases h
  | some a =>
    rw [List.mem_singleton.mp h]
    exact wf_outgoing _ _ _ (by simp)

theorem wf_of_mem_acceptEvents {a : Option Byte} {ty : Byte} {w : FrameFields} {e : Event}
    (hw : w.payload.length ≤ 245) (h : e ∈ acceptEvents a ty w (classify mfc ty)) : e.wf mfc := by
  rcases List.mem_cons.mp h with rfl | h
  · exact ⟨hw, rfl⟩
  · split at h
    · exact wf_of_mem_replyEvents h
    · cases h

/-- A payload that was found fits its length byte. -/
theorem payload_length_of_scan {P : Params} {m : Memory} {ty : Byte} {w : FrameFields} {k : Nat}
    (h : scan P m = .valid ty w k) : w.payload.length ≤ 245 := by
  rcases scan_cases P m with ⟨_, e⟩ | ⟨off, _, ⟨_, e⟩ | ⟨d, _, ⟨_, e⟩ | ⟨_, _, e⟩ | ⟨c, _, _, ⟨_, e⟩ | ⟨_, e⟩⟩⟩⟩ <;>
    cases e.symm.trans h
  have := d.length.isLt
  rw [frameFields, slice_length, headerSize]
  omega

/-- The bytes a corrupt candidate logs have the length its cause allows (60_exceptions.md R150). -/
theorem wf_log_of_scan {P : Params} {m : Memory} {c : Cause} {b : Bytes} (h : scan P m = .corrupt c b) :
    (Event.log c b).wf P := by
  rcases scan_cases P m with ⟨_, e⟩ | ⟨off, _, ⟨_, e⟩ | ⟨d, hd, ⟨hshort, e⟩ | ⟨_, _, e⟩ |
    ⟨last, hten, hlast, ⟨_, e⟩ | ⟨_, e⟩⟩⟩⟩ <;> cases e.symm.trans h
  · have hlen : 10 ≤ (m.drop off).length := by
      by_contra hlt
      cases hd.symm.trans (Header.read_eq_none.mpr (by omega))
    rw [List.length_drop] at hlen
    rw [Event.wf, candidate, slice_length]
    omega
  · have hlen : off + d.length.toNat < m.length := by
      by_contra hle
      cases hlast.symm.trans ((Memory.read_eq_none _ _).mpr (by omega))
    have := d.length.isLt
    rw [Event.wf, candidate, slice_length]
    omega

/-! ### The invariant -/

/-- The invariant is kept where the buffer stays within its ceiling and well-formed events are added. -/
theorem Inv.of_events {s t : State} {es : List Event} (h : Inv s) (hbuf : t.buf.wf) (hout : t.out = s.out ++ es)
    (hes : ∀ e ∈ es, e.wf mfc) : Inv t := by
  refine ⟨hbuf, fun e he => ?_⟩
  rw [hout] at he
  exact (List.mem_append.mp he).elim (h.2 e) (hes e)

theorem Inv.of_event {s t : State} {e : Event} (h : Inv s) (hbuf : t.buf.wf) (hout : t.out = s.out ++ [e])
    (he : e.wf mfc) : Inv t :=
  h.of_events hbuf hout fun f hf => by rwa [List.mem_singleton.mp hf]

theorem inv_parseStep {s : State} (h : Inv s) : Inv (parseStep mfc s).1 := by
  cases hs : scan mfc s.buf with
  | wait r => rwa [parseStep_wait hs]
  | corrupt c b =>
    rw [parseStep_corrupt hs]
    exact h.of_event (Nat.zero_le _) rfl (wf_log_of_scan hs)
  | valid ty w k =>
    rw [parseStep_valid hs, acceptFrame_eq]
    exact h.of_events (wf_removeFront h.1 k) rfl fun e => wf_of_mem_acceptEvents (payload_length_of_scan hs)

theorem inv_parseRun {s : State} (h : Inv s) : Inv (parseRun mfc s).1 :=
  parseLoop_keeps mfc Inv (fun _ => inv_parseStep) _ s h

theorem inv_exec_parser {i : Instr} {s t : State} (hi : i = .parseStep ∨ i = .parseRun) (h : Inv s)
    (he : exec i s = .next t) : Inv t := by
  rcases hi with rfl | rfl <;> obtain rfl := Host.Outcome.next.inj he
  · exact inv_parseStep h
  · exact inv_parseRun h

/-- Every operation keeps the invariant; of a wire row run by itself nothing says that its payload fits a frame. -/
theorem inv_exec {i : Instr} {s t : State} (hi : i.form ≠ .wire) (h : Inv s) (he : exec i s = .next t) : Inv t := by
  cases exec_effect he with
  | refuse | answer | setCrc | setSum | setId => exact h
  | reset | flush => exact ⟨Nat.zero_le _, h.2⟩
  | append c _ hfits =>
    refine ⟨?_, h.2⟩
    rwa [State.ret_buf, State.append_buf, Memory.wf, List.length_append]
  | overrun c _ hover => exact h.of_event (Nat.zero_le _) rfl (by rwa [Event.wf, List.length_append])
  | send a ty p _ hp => exact h.of_event h.1 rfl (wf_outgoing a s.protoVer ty hp)
  | reply => exact h.of_events h.1 rfl fun e => wf_of_mem_replyEvents
  | accept _ _ _ hwire => exact absurd hwire hi
  | parse _ _ _ _ hparser | corrupt _ _ _ _ _ hparser => exact inv_exec_parser hparser h he

/-- Settles O53: a step is idle or runs an operation that was decoded, so no wire row. -/
theorem stepKeepsInvariant : Obligations.StepKeepsInvariant := by
  unfold Obligations.StepKeepsInvariant
  intro s t h hstep
  obtain ⟨hcmd, hidle, hbad⟩ := stepRunsDecodedCommand
  cases hp : s.pending with
  | nil =>
    obtain rfl := Host.Outcome.next.inj ((hidle s hp).symm.trans hstep)
    exact h
  | cons packet rest =>
    cases hd : decodeCommand packet with
    | error r => cases (hbad s packet rest r hp hd).symm.trans hstep
    | ok i =>
      have hform : i.form ≠ .wire := by
        rw [form_of_decodeCommand hd]
        decide
      have hrest : Inv { s with pending := rest } := h
      exact inv_exec hform hrest ((hcmd s packet rest i hp hd).symm.trans hstep)

/-! ### The end of PARSE.RUN -/

theorem ResultCode.mem_of_isWait {r : ResultCode} (h : r.isWait = true) :
    r ∈ [waitNoStart, waitHeader, waitBody, corruptLength, corruptSum] := by
  cases r with
  | waitNoStart | waitHeader | waitBody => decide
  | _ => cases h

/-- Settles O35: the last pass waits or enters a fault, and each frame accepted before has at least 11 bytes. -/
theorem parseRunEnds : Obligations.ParseRunEnds := by
  unfold Obligations.ParseRunEnds
  intro s
  obtain ⟨u, k, es, hu, hrun, hlast⟩ := parseRun_effect mfc s
  have hframes : s.buf.wf → es.countP Event.isFrame ≤ 93 := fun hwf => by
    have := hu.low
    have := hu.high
    simp only [Memory.wf, Config.bufCeiling] at hwf
    omega
  rw [exec_parseRun, hrun]
  rcases hlast with ⟨r, hr, e⟩ | ⟨c, b, hc, e⟩
  · refine ⟨u.ret r, r, by rw [e, finish_pair], congrArg (· ++ [r]) hu.rest.returned,
      ResultCode.mem_of_isWait hr, fun hwf => ?_⟩
    simpa [hu.out] using hframes hwf
  · refine ⟨(raise c b u).1.ret c.result, c.result, by rw [e]; rfl, congrArg (· ++ [c.result]) hu.rest.returned, ?_,
      fun hwf => ?_⟩
    · cases c with
      | overrun => exact absurd rfl hc
      | badSum | badLength => decide
    · simpa [hu.out, Event.isFrame] using hframes hwf

end Sys2Proof.Machine
end

section
/-! PROOFS. What the parser, the builder and the accumulator do not read: the registers of the two other units
(10_state.md R20, R21), the returned codes, and, for reception, the identifier (43_frame_parser.md R121). -/

namespace Sys2Proof.Machine

open Config (Params mfc)

/-! ### Fields that parser, builder and accumulator neither read nor write -/

/-- `f` changes only such fields. -/
structure Unread (f : State → State) : Prop where
  buf : ∀ s, (f s).buf = s.buf
  protoVer : ∀ s, (f s).protoVer = s.protoVer
  applianceId : ∀ s, (f s).applianceId = s.applianceId
  setProtoVer : ∀ s v, (f s).setProtoVer v = f (s.setProtoVer v)
  append : ∀ s c, (f s).append c = f (s.append c)
  removeFront : ∀ s k, (f s).removeFront k = f (s.removeFront k)
  discard : ∀ s, (f s).discard = f s.discard
  emit : ∀ s e, (f s).emit e = f (s.emit e)

/-- The state with other values in `crc` and `sum`. -/
def State.withUnits (c d : Option Byte) (s : State) : State := { s with crc := c, sum := d }

theorem unread_withUnits (c d : Option Byte) : Unread (State.withUnits c d) := by
  constructor <;> intros <;> rfl

/-- The state with other codes returned so far. -/
def State.withReturned (rs : List ResultCode) (s : State) : State := { s with returned := rs }

theorem unread_withReturned (rs : List ResultCode) : Unread (State.withReturned rs) := by
  constructor <;> intros <;> rfl

namespace Unread

variable {f : State → State} (hf : Unread f)
include hf

theorem raise (c : Cause) (b : Bytes) (s : State) :
    Machine.raise c b (f s) = (f (Machine.raise c b s).1, (Machine.raise c b s).2) := by
  rw [Machine.raise, flush, hf.emit, hf.discard]
  rfl

theorem rxAppend (c : Bytes) (s : State) :
    Machine.rxAppend c (f s) = (f (Machine.rxAppend c s).1, (Machine.rxAppend c s).2) := by
  rcases rxAppend_cases c s with ⟨hfits, e⟩ | ⟨hover, e⟩
  · rw [e, rxAppend_of_fits (by rwa [hf.buf]), hf.append]
  · rw [e, rxAppend_of_overrun (by rwa [hf.buf]), hf.buf, hf.raise]

theorem txFrame (P : Params) (ty : Byte) (p : Bytes) (s : State) :
    Machine.txFrame P ty p (f s) = (f (Machine.txFrame P ty p s).1, (Machine.txFrame P ty p s).2) := by
  rw [Machine.txFrame, Machine.txFrame, hf.applianceId, hf.protoVer]
  cases s.applianceId with
  | none => rfl
  | some a =>
    simp only [hf.emit]
    split <;> rfl

theorem acceptFrame (P : Params) (cls : FrameClass) (ty : Byte) (w : FrameFields) (s : State) :
    Machine.acceptFrame P cls ty w (f s) = f (Machine.acceptFrame P cls ty w s) := by
  have hs : ((f s).setProtoVer w.ver).emit (frameEvent cls ty w) =
      f ((s.setProtoVer w.ver).emit (frameEvent cls ty w)) := by
    rw [hf.setProtoVer, hf.emit]
  cases cls with
  | netq => exact (congrArg (fun s => (nqReply P s).1) hs).trans (congrArg Prod.fst (hf.txFrame P _ _ _))
  | telemetry | other => exact hs

theorem parseStep (P : Params) (s : State) :
    Machine.parseStep P (f s) = (f (Machine.parseStep P s).1, (Machine.parseStep P s).2) := by
  rw [Machine.parseStep, Machine.parseStep, hf.buf]
  cases scan P s.buf with
  | wait r => rfl
  | corrupt c b => exact hf.raise c b s
  | valid ty w k => simp only [hf.acceptFrame, hf.removeFront]

theorem parseLoop (P : Params) (n : Nat) (s : State) :
    Machine.parseLoop P n (f s) = (f (Machine.parseLoop P n s).1, (Machine.parseLoop P n s).2) := by
  induction n generalizing s with
  | zero => exact hf.parseStep P s
  | succ n ih =>
    have hstep := hf.parseStep P s
    cases hp : Machine.parseStep P s with
    | mk t r =>
      rw [hp] at hstep
      by_cases hr : r = .gotFrame
      · subst hr
        rw [parseLoop_of_gotFrame hp, parseLoop_of_gotFrame hstep, ih]
      · rw [parseLoop_of_not_gotFrame hp hr, parseLoop_of_not_gotFrame hstep hr]

theorem parseRun (P : Params) (s : State) :
    Machine.parseRun P (f s) = (f (Machine.parseRun P s).1, (Machine.parseRun P s).2) := by
  rw [Machine.parseRun, hf.buf]
  exact hf.parseLoop P _ s

end Unread

/-- The end of a host operation on a state with other values in the two registers. -/
theorem finish_withUnits {p q : State × ResultCode} {c d : Option Byte} {t : State} (h : finish p = .next t)
    (hq : q = (p.1.withUnits c d, p.2)) : finish q = .next (t.withUnits c d) := by
  subst hq
  cases h
  rfl

/-- Settles O51: the two registers are among the fields that the other operations do not read. -/
theorem unitsAreIndependent : Obligations.UnitsAreIndependent := by
  unfold Obligations.UnitsAreIndependent
  intro i s t c d hunit hreset h
  have hf := unread_withUnits c d
  cases i with
  | crcClr | crcUpd | crcRd | sumClr | sumUpd | sumRd | sumChk => cases hunit
  | reset => exact absurd rfl hreset
  | cfgId | badOp | rxFlush => cases h; rfl
  | rxAppend b => exact finish_withUnits h (hf.rxAppend b s)
  | parseStep => exact finish_withUnits h (hf.parseStep mfc s)
  | parseRun => exact finish_withUnits h (hf.parseRun mfc s)
  | txFrame | txBody | txProbe => exact finish_withUnits h (hf.txFrame mfc _ _ s)
  | txNqReply =>
    cases h
    exact congrArg (fun p => Host.Outcome.next (Prod.fst p)) (hf.txFrame mfc _ _ s)
  | frameAny | frameNetq | frameSet | frameGet | frameNotify | frameOther =>
    cases h
    exact congrArg Host.Outcome.next (hf.acceptFrame mfc _ _ _ s)

/-! ### Reception and the identifier -/

/-- `s'` is `s` with the identifier `a`, but for the frames sent. -/
structure AgreeButSent (a : Option Byte) (s s' : State) : Prop where
  eq : s' = { s with applianceId := a, out := s'.out }
  events : s'.out.filter (fun e => !e.isTx) = s.out.filter (fun e => !e.isTx)

/-- Of the events of an acceptance all but the `EV_FRAME` are sent frames. -/
theorem filter_acceptEvents (a : Option Byte) (ty : Byte) (w : FrameFields) (cls : FrameClass) :
    (acceptEvents a ty w cls).filter (fun e => !e.isTx) = [.frame w.id w.sync w.ver ty w.payload cls] := by
  obtain ⟨es, hes, htx⟩ := acceptEvents_eq a ty w cls
  have hnil : es.filter (fun e => !e.isTx) = [] := List.filter_eq_nil_iff.mpr (by simpa using htx)
  rw [hes, List.filter_cons_of_pos rfl, hnil]

namespace AgreeButSent

variable {a : Option Byte} {s s' : State} (h : AgreeButSent a s s')
include h

theorem buf : s'.buf = s.buf := by rw [h.eq]

theorem ret (r : ResultCode) : AgreeButSent a (s.ret r) (s'.ret r) where
  eq := by rw [h.eq]; rfl
  events := h.events

theorem append (c : Bytes) : AgreeButSent a (s.append c) (s'.append c) where
  eq := by rw [h.eq]; rfl
  events := h.events

theorem removeFront (k : Nat) : AgreeButSent a (s.removeFront k) (s'.removeFront k) where
  eq := by rw [h.eq]; rfl
  events := h.events

theorem raise (c : Cause) (b : Bytes) : AgreeButSent a (Machine.raise c b s).1 (Machine.raise c b s').1 where
  eq := by rw [h.eq]; rfl
  events := by simp [h.events]

theorem acceptFrame (cls : FrameClass) (ty : Byte) (w : FrameFields) :
    AgreeButSent a (Machine.acceptFrame mfc cls ty w s) (Machine.acceptFrame mfc cls ty w s') where
  eq := by rw [acceptFrame_eq, acceptFrame_eq, h.eq]
  events := by simp only [acceptFrame_eq, List.filter_append, filter_acceptEvents, h.events]

theorem rxAppend (c : Bytes) : AgreeButSent a (Machine.rxAppend c s).1 (Machine.rxAppend c s').1 ∧
    (Machine.rxAppend c s').2 = (Machine.rxAppend c s).2 := by
  rcases rxAppend_cases c s with ⟨hfits, e⟩ | ⟨hover, e⟩
  · rw [e, rxAppend_of_fits (by rwa [h.buf])]
    exact ⟨h.append c, rfl⟩
  · rw [e, rxAppend_of_overrun (by rwa [h.buf]), h.buf]
    exact ⟨h.raise _ _, rfl⟩

theorem parseStep : AgreeButSent a (Machine.parseStep mfc s).1 (Machine.parseStep mfc s').1 ∧
    (Machine.parseStep mfc s').2 = (Machine.parseStep mfc s).2 := by
  rw [Machine.parseStep, Machine.parseStep, h.buf]
  cases scan mfc s.buf with
  | wait r => exact ⟨h, rfl⟩
  | corrupt c b => exact ⟨h.raise c b, rfl⟩
  | valid ty w k => exact ⟨(h.acceptFrame _ ty w).removeFront k, rfl⟩

omit h in
theorem parseLoop (n : Nat) (h : AgreeButSent a s s') :
    AgreeButSent a (Machine.parseLoop mfc n s).1 (Machine.parseLoop mfc n s').1 ∧
    (Machine.parseLoop mfc n s').2 = (Machine.parseLoop mfc n s).2 := by
  induction n generalizing s s' with
  | zero => exact h.parseStep
  | succ n ih =>
    obtain ⟨hstate, hcode⟩ := h.parseStep
    cases hp : Machine.parseStep mfc s with
    | mk t r =>
      cases hp' : Machine.parseStep mfc s' with
      | mk t' r' =>
        rw [hp, hp'] at hstate hcode
        obtain rfl : r' = r := hcode
        by_cases hr : r' = .gotFrame
        · subst hr
          rw [parseLoop_of_gotFrame hp, parseLoop_of_gotFrame hp']
          exact ih hstate
        · rw [parseLoop_of_not_gotFrame hp hr, parseLoop_of_not_gotFrame hp' hr]
          exact ⟨hstate, rfl⟩

theorem parseRun : AgreeButSent a (Machine.parseRun mfc s).1 (Machine.parseRun mfc s').1 ∧
    (Machine.parseRun mfc s').2 = (Machine.parseRun mfc s).2 := by
  rw [Machine.parseRun, Machine.parseRun, h.buf]
  exact parseLoop _ h

end AgreeButSent

/-- The end of a host operation in two states that agree but for the frames sent. -/
theorem AgreeButSent.finish {a : Option Byte} {p q : State × ResultCode} {t : State}
    (h : AgreeButSent a p.1 q.1 ∧ q.2 = p.2) (hp : Machine.finish p = .next t) :
    ∃ t', Machine.finish q = .next t' ∧ AgreeButSent a t t' := by
  obtain ⟨hstate, hcode⟩ := h
  cases hp
  exact ⟨_, rfl, hcode ▸ hstate.ret _⟩

/-- Settles O36: agreement but for the frames sent is kept by every operation of reception. -/
theorem receptionIgnoresIdentifier : Obligations.ReceptionIgnoresIdentifier := by
  unfold Obligations.ReceptionIgnoresIdentifier
  intro i s t a hi h
  have hs : AgreeButSent a s { s with applianceId := a } := ⟨rfl, rfl⟩
  obtain ⟨t', ht, hagree⟩ : ∃ t', exec i { s with applianceId := a } = .next t' ∧ AgreeButSent a t t' := by
    cases i with
    | rxAppend c => exact AgreeButSent.finish (hs.rxAppend c) h
    | parseStep => exact AgreeButSent.finish hs.parseStep h
    | parseRun => exact AgreeButSent.finish hs.parseRun h
    | frameAny | frameNetq | frameSet | frameGet | frameNotify | frameOther =>
      cases h
      exact ⟨_, rfl, hs.acceptFrame _ _ _⟩
    | _ => rcases hi with hi | hi <;> cases hi
  exact ⟨t', ht, hagree.eq, hagree.events⟩

end Sys2Proof.Machine
end

section
/-! PROOFS. Runs of operations: bytes streamed through a unit give its function (40_crc8.md R85, 41_checksum.md R97),
whatever operations of the other units are interleaved. -/

namespace Sys2Proof.Machine

open Config (Params mfc)

theorem execAll_cons_of_next {i : Instr} {is : List Instr} {s t : State} (h : exec i s = .next t) :
    execAll (i :: is) s = execAll is t := by
  rw [execAll, h]

theorem execAll_singleton (i : Instr) (s : State) : execAll [i] s = exec i s := by
  obtain ⟨t, ht⟩ := exec_isNext i s
  rw [execAll_cons_of_next ht, ht, execAll]

/-- A run goes on from the state its first part has led to. -/
theorem execAll_append_of_next {is js : List Instr} {s t : State} (h : execAll is s = .next t) :
    execAll (is ++ js) s = execAll js t := by
  induction is generalizing s with
  | nil =>
    cases h
    rfl
  | cons i is ih =>
    obtain ⟨u, hu⟩ := exec_isNext i s
    rw [execAll_cons_of_next hu] at h
    rw [List.cons_append, execAll_cons_of_next hu, ih h]

/-- A register that every operation of a run folds its bytes into, folds the run's bytes. -/
theorem execAll_foldl {reg : State → Option Byte} {bytes : List Instr → Bytes} {f : Byte → Byte → Byte}
    {ok : Instr → Prop} (hnil : bytes [] = []) (hcons : ∀ i is, bytes (i :: is) = bytes [i] ++ bytes is)
    (hstep : ∀ i s t c, ok i → exec i s = .next t → reg s = some c → reg t = some ((bytes [i]).foldl f c))
    (ops : List Instr) (s : State) (c : Byte) (hops : ∀ i ∈ ops, ok i) (hc : reg s = some c) :
    ∃ t, execAll ops s = .next t ∧ reg t = some ((bytes ops).foldl f c) := by
  induction ops generalizing s c with
  | nil => exact ⟨s, rfl, by rw [hnil]; exact hc⟩
  | cons i ops ih =>
    obtain ⟨u, hu⟩ := exec_isNext i s
    obtain ⟨hi, hops⟩ := List.forall_mem_cons.mp hops
    obtain ⟨t, ht, hreg⟩ := ih u _ hops (hstep i s u c hi hu hc)
    exact ⟨t, by rw [execAll_cons_of_next hu, ht], by rw [hreg, hcons i ops, List.foldl_append]⟩

/-! ### The CRC generator -/

theorem crcBytes_cons (i : Instr) (is : List Instr) : crcBytes (i :: is) = crcBytes [i] ++ crcBytes is :=
  List.flatMap_append (xs := [i])

theorem crcBytes_of_not_crcUpd {i : Instr} (h : ¬ ∃ b, i = .crcUpd b) : crcBytes [i] = [] := by
  cases i with
  | crcUpd b => exact absurd ⟨b, rfl⟩ h
  | _ => rfl

/-- An operation but RESET and CRC.CLR folds its bytes into the CRC register. -/
theorem crc_of_exec (i : Instr) (s t : State) (c : Byte) (hi : i ≠ .reset ∧ i ≠ .crcClr) (h : exec i s = .next t)
    (hc : s.crc = some c) : t.crc = some ((crcBytes [i]).foldl (crcNext mfc) c) := by
  by_cases hupd : ∃ b, i = .crcUpd b
  · obtain ⟨b, rfl⟩ := hupd
    rw [exec_crcUpd, crcUpdate_of_some hc, finish_pair] at h
    cases h
    rfl
  · rw [crcBytes_of_not_crcUpd hupd, List.foldl_nil, ← hc]
    rcases (exec_effect h).crc_eq with e | e | e | e
    · exact e
    · exact absurd e hi.2
    · exact absurd e hupd
    · exact absurd e hi.1

/-- After CRC.CLR the register holds `crc8` of the bytes given since. -/
theorem crc_of_execAll {ops : List Instr} (s : State) (hops : ∀ i ∈ ops, i ≠ .reset ∧ i ≠ .crcClr) :
    ∃ t, execAll (.crcClr :: ops) s = .next t ∧ t.crc = some (crc8 mfc (crcBytes ops)) := by
  exact execAll_foldl rfl crcBytes_cons crc_of_exec ops ((s.setCrc (some 0)).ret .done) 0 hops rfl

/-- Settles O15: CRC.RD reads what the stream has left in the register. -/
theorem crcStreamingEqualsFunction : Obligations.CrcStreamingEqualsFunction := by
  unfold Obligations.CrcStreamingEqualsFunction
  intro ops s hops
  obtain ⟨t, ht, hcrc⟩ := crc_of_execAll s hops
  refine ⟨t.ret (.byte (crc8 mfc (crcBytes ops))), ?_, List.getLast?_concat, hcrc⟩
  rw [← List.cons_append, execAll_append_of_next ht, execAll_singleton, exec_crcRd, crcRead_of_some hcrc, finish_pair]

/-! ### The checksum unit -/

theorem sumBytes_cons (i : Instr) (is : List Instr) : sumBytes (i :: is) = sumBytes [i] ++ sumBytes is :=
  List.flatMap_append (xs := [i])

theorem sumBytes_of_not_sumUpd {i : Instr} (h : ¬ ∃ b, i = .sumUpd b) : sumBytes [i] = [] := by
  cases i with
  | sumUpd b => exact absurd ⟨b, rfl⟩ h
  | _ => rfl

/-- An operation but RESET and SUM.CLR folds its bytes into the checksum register. -/
theorem sum_of_exec (i : Instr) (s t : State) (a : Byte) (hi : i ≠ .reset ∧ i ≠ .sumClr) (h : exec i s = .next t)
    (ha : s.sum = some a) : t.sum = some ((sumBytes [i]).foldl (fun a b => a - b) a) := by
  by_cases hupd : ∃ b, i = .sumUpd b
  · obtain ⟨b, rfl⟩ := hupd
    rw [exec_sumUpd, sumUpdate_of_some ha, finish_pair] at h
    cases h
    rfl
  · rw [sumBytes_of_not_sumUpd hupd, List.foldl_nil, ← ha]
    rcases (exec_effect h).sum_eq with e | e | e | e
    · exact e
    · exact absurd e hi.2
    · exact absurd e hupd
    · exact absurd e hi.1

/-- After SUM.CLR the register holds `checksum` of the bytes given since. -/
theorem sum_of_execAll {ops : List Instr} (s : State) (hops : ∀ i ∈ ops, i ≠ .reset ∧ i ≠ .sumClr) :
    ∃ t, execAll (.sumClr :: ops) s = .next t ∧ t.sum = some (checksum (sumBytes ops)) := by
  exact execAll_foldl rfl sumBytes_cons sum_of_exec ops ((s.setSum (some 0)).ret .done) 0 hops rfl

/-- SUM.CHK's code is the validation of the bytes followed by its operand (41_checksum.md R96, R97). -/
theorem compareCode_checksum (bytes : Bytes) (c : Byte) :
    compareCode (checksum bytes) c = if validate (bytes ++ [c]) = some true then .isMatch else .mismatch := by
  simp [compareCode, validate_concat]

/-- Settles O21: SUM.RD and SUM.CHK read what the stream has left in the register. -/
theorem sumStreamingEqualsFunction : Obligations.SumStreamingEqualsFunction := by
  unfold Obligations.SumStreamingEqualsFunction
  intro ops s c hops
  obtain ⟨t, ht, hsum⟩ := sum_of_execAll s hops
  constructor
  · refine ⟨t.ret (.byte (checksum (sumBytes ops))), ?_, List.getLast?_concat⟩
    rw [← List.cons_append, execAll_append_of_next ht, execAll_singleton, exec_sumRd, sumRead_of_some hsum, finish_pair]
  · refine ⟨t.ret (compareCode (checksum (sumBytes ops)) c), ?_, ?_⟩
    · rw [← List.cons_append, execAll_append_of_next ht, execAll_singleton, exec_sumChk, sumCheck_of_some hsum,
        finish_pair]
    · rw [← compareCode_checksum]
      exact List.getLast?_concat

end Sys2Proof.Machine
end

section
/-! PROOFS. Receive schedules (70_reset_and_hazards.md R176(c)): what the parser decides about a buffer, later bytes do
not change, so a schedule ends as PARSE.RUN on the whole stream does. -/

namespace Sys2Proof.Machine

open Config (Params mfc headerSize)

/-! ### A decided scan is stable under later bytes -/

theorem find_append {m : Memory} {v : Byte} {off : Nat} (h : find m v = some off) (c : Bytes) :
    find (m ++ c) v = some off := by
  obtain ⟨hat, hbefore⟩ := find_eq_some.mp h
  have hlt : off < m.length := (List.getElem?_eq_some_iff.mp hat).1
  refine find_eq_some.mpr ⟨by rwa [List.getElem?_append_left hlt], fun j hj => ?_⟩
  rw [List.getElem?_append_left (by omega)]
  exact hbefore j hj

/-- Where the parser does not wait, it finds the same with more bytes in the buffer. -/
theorem scan_append {P : Params} {m : Memory} (h : ∀ r, scan P m ≠ .wait r) (c : Bytes) :
    scan P (m ++ c) = scan P m := by
  rcases scan_cases P m with ⟨_, e⟩ | ⟨off, hf, ⟨_, e⟩ | ⟨d, hd, hcase⟩⟩
  · exact absurd e (h _)
  · exact absurd e (h _)
  have hten : 10 ≤ (m.drop off).length := by
    by_contra hlt
    cases hd.symm.trans (Header.read_eq_none.mpr (by omega))
  rw [List.length_drop] at hten
  have hf' := find_append hf c
  have hd' : Header.read ((m ++ c).drop off) = some d := by
    rw [List.drop_append_of_le_length (by omega)]
    exact Header.read_append hd c
  rcases hcase with ⟨hshort, e⟩ | ⟨_, _, e⟩ | ⟨last, hL, hlast, _⟩
  · rw [e, scan_of_short hf' hd' hshort, candidate, candidate, slice_append_left (by omega)]
  · exact absurd e (h _)
  · have hlt : off + d.length.toNat < m.length := (List.getElem?_eq_some_iff.mp hlast).1
    have hlast' : Memory.read (m ++ c) (off + d.length.toNat) = some last := by
      rwa [Memory.read_append_left _ _ _ hlt]
    have hcovered : covered (m ++ c) off d.length.toNat = covered m off d.length.toNat :=
      slice_append_left (by omega) c _
    have hcandidate : candidate (m ++ c) off d.length.toNat = candidate m off d.length.toNat :=
      slice_append_left (by omega) c _
    have hfields : frameFields (m ++ c) off d.length.toNat d = frameFields m off d.length.toNat d := by
      rw [frameFields, frameFields, slice_append_left (by omega)]
    rw [scan_of_complete hf hd hL hlast, scan_of_complete hf' hd' hL hlast', hcovered, hcandidate, hfields]

theorem parseStep_append_of_valid {s : State} {ty : Byte} {w : FrameFields} {k : Nat}
    (h : scan mfc s.buf = .valid ty w k) (c : Bytes) :
    parseStep mfc (s.append c) = ((parseStep mfc s).1.append c, .gotFrame) := by
  have h' : scan mfc (s.append c).buf = .valid ty w k := by
    rw [State.append_buf, scan_append (by simp [h]), h]
  rw [parseStep_valid h, parseStep_valid h', acceptFrame_eq, acceptFrame_eq]
  simp [State.append, State.removeFront, List.drop_append_of_le_length (scan_valid h).2]

theorem parseStep_append_of_corrupt {s : State} {ca : Cause} {b : Bytes} (h : scan mfc s.buf = .corrupt ca b)
    (c : Bytes) : parseStep mfc (s.append c) = raise ca b (s.append c) := by
  refine parseStep_corrupt ?_
  rw [State.append_buf, scan_append (by simp [h]), h]

/-! ### The end a stream leads to -/

/-- PARSE.RUN once the bytes `c` have arrived too, whatever their number and whatever codes have been returned: where
every schedule from `s` that delivers `c` ends. -/
def drained (s : State) (c : Bytes) : State × ResultCode := parseRun mfc ((s.withReturned []).append c)

theorem drained_ret (s : State) (r : ResultCode) (c : Bytes) : drained (s.ret r) c = drained s c := rfl

theorem drained_append (s : State) (d c : Bytes) : drained (s.append d) c = drained s (d ++ c) := by
  simp [drained, State.append, State.withReturned]

theorem parseRun_returned (s : State) : (parseRun mfc s).1.returned = s.returned :=
  parseLoop_keeps mfc (fun t => t.returned = s.returned) (fun t ht => (parseStep_returned mfc t).trans ht) _ s rfl

/-- PARSE.RUN itself is the end without further bytes. -/
theorem exec_parseRun_eq_drained (s : State) :
    exec .parseRun s = .next ((drained s []).1.withReturned (s.returned ++ [(drained s []).2])) := by
  have h : drained s [] = ((parseRun mfc s).1.withReturned [], (parseRun mfc s).2) := by
    rw [← (unread_withReturned []).parseRun, drained, State.append, List.append_nil]
  rw [exec_parseRun, h, finish, State.ret, parseRun_returned]
  rfl

/-- The codes `rs` were answered on the way from `s` to `t`, while `d` arrived. Either none is a fault's, and `t` leads
to the end that `s` leads to; or one is, and then whatever else arrives, PARSE.RUN on the whole stream ends in a fault. -/
def Continues (s : State) (d : Bytes) (t : State) (rs : List ResultCode) : Prop :=
  ((∀ r ∈ rs, r.isFault = false) ∧ ∀ c, drained t c = drained s (d ++ c)) ∨
  ((∃ r ∈ rs, r.isFault = true) ∧ ∀ c, (drained s (d ++ c)).2.isFault = true)

theorem Continues.of_drained_eq {s t u : State} {d e : Bytes} {rs : List ResultCode} (h : Continues t e u rs)
    (heq : ∀ c, drained t (e ++ c) = drained s (d ++ c)) : Continues s d u rs := by
  simpa only [Continues, heq] using h

theorem Continues.nil (s : State) : Continues s [] s [] := .inl ⟨by simp, fun _ => rfl⟩

theorem Continues.trans {s t u : State} {d e : Bytes} {rs qs : List ResultCode} (h : Continues s d t rs)
    (g : Continues t e u qs) : Continues s (d ++ e) u (rs ++ qs) := by
  simp only [Continues, List.append_assoc, List.mem_append]
  rcases h with ⟨hrs, heq⟩ | ⟨⟨r, hr, hf⟩, hfault⟩
  · rcases g with ⟨hqs, heq'⟩ | ⟨⟨q, hq, hf⟩, hfault⟩
    · exact .inl ⟨fun r hr => hr.elim (hrs r) (hqs r), fun c => (heq' c).trans (heq (e ++ c))⟩
    · exact .inr ⟨⟨q, .inr hq, hf⟩, fun c => heq (e ++ c) ▸ hfault c⟩
  · exact .inr ⟨⟨r, .inl hr, hf⟩, fun c => hfault (e ++ c)⟩

/-! ### The operations of a schedule -/

theorem parseStep_withReturned (s : State) (rs : List ResultCode) :
    parseStep mfc (s.withReturned rs) = ((parseStep mfc s).1.withReturned rs, (parseStep mfc s).2) :=
  (unread_withReturned rs).parseStep mfc s

/-- An accepted frame is accepted from the whole stream too. -/
theorem drained_of_valid {s : State} {ty : Byte} {w : FrameFields} {k : Nat} (h : scan mfc s.buf = .valid ty w k)
    (c : Bytes) : drained (parseStep mfc s).1 c = drained s c := by
  have hstep := parseStep_append_of_valid (s := s.withReturned []) h c
  rw [parseStep_withReturned] at hstep
  exact (parseRun_of_gotFrame hstep).symm

/-- A corrupt candidate is one in the whole stream too. -/
theorem drained_of_corrupt {s : State} {ca : Cause} {b : Bytes} (h : scan mfc s.buf = .corrupt ca b) (c : Bytes) :
    (drained s c).2 = ca.result := by
  have hstep := parseStep_append_of_corrupt (s := s.withReturned []) h c
  rw [drained, parseRun_of_not_gotFrame hstep (by cases ca <;> decide)]

theorem Cause.isFault_result (c : Cause) : c.result.isFault = true := by
  cases c <;> rfl

theorem continues_parseStep (s : State) : Continues s [] (parseStep mfc s).1 [(parseStep mfc s).2] := by
  cases h : scan mfc s.buf with
  | wait r =>
    rw [parseStep_wait h]
    exact .inl ⟨by simpa using ResultCode.isFault_eq_false_of_isWait (scan_wait h), fun _ => rfl⟩
  | corrupt ca b =>
    refine .inr ⟨⟨_, List.mem_singleton_self _, ?_⟩, fun c => ?_⟩
    · rw [parseStep_corrupt h]
      exact ca.isFault_result
    · rw [List.nil_append, drained_of_corrupt h]
      exact ca.isFault_result
  | valid ty w k =>
    refine .inl ⟨?_, drained_of_valid h⟩
    rw [parseStep_valid h]
    simp [ResultCode.isFault]

theorem continues_parseLoop (n : Nat) (s : State) :
    Continues s [] (parseLoop mfc n s).1 [(parseLoop mfc n s).2] := by
  induction n generalizing s with
  | zero => exact continues_parseStep s
  | succ n ih =>
    have hstep := continues_parseStep s
    cases hp : parseStep mfc s with
    | mk t r =>
      rw [hp] at hstep
      by_cases hr : r = .gotFrame
      · subst hr
        rw [parseLoop_of_gotFrame hp]
        rcases hstep with ⟨_, heq⟩ | ⟨hfault, _⟩
        · exact (ih t).of_drained_eq heq
        · simp [ResultCode.isFault] at hfault
      · rwa [parseLoop_of_not_gotFrame hp hr]

/-- An operation of a schedule that does not overrun. -/
theorem continues_exec {i : Instr} {s t : State} (hi : i.isReceive = true) (h : exec i s = .next t) :
    ∃ r, t.returned = s.returned ++ [r] ∧ (r ≠ .overrun → Continues s (rxBytes [i]) t [r]) := by
  cases i with
  | rxAppend d =>
    rw [exec_rxAppend] at h
    rcases rxAppend_cases d s with ⟨_, e⟩ | ⟨_, e⟩ <;> rw [e] at h <;> cases h
    · refine ⟨.ok, rfl, fun _ => .inl ⟨by simp [ResultCode.isFault], fun c => ?_⟩⟩
      rw [drained_ret, drained_append]
      simp [rxBytes]
    · exact ⟨.overrun, rfl, fun hne => absurd rfl hne⟩
  | parseStep =>
    cases h
    exact ⟨_, congrArg (· ++ _) (parseStep_returned mfc s), fun _ => continues_parseStep s⟩
  | parseRun =>
    cases h
    exact ⟨_, congrArg (· ++ _) (parseRun_returned s), fun _ => continues_parseLoop _ s⟩
  | _ => cases hi

theorem rxBytes_cons (i : Instr) (is : List Instr) : rxBytes (i :: is) = rxBytes [i] ++ rxBytes is :=
  List.flatMap_append (xs := [i])

/-- A schedule without an overrun. -/
theorem continues_execAll {is : List Instr} {s t : State} (his : ∀ i ∈ is, i.isReceive = true)
    (h : execAll is s = .next t) :
    ∃ rs, t.returned = s.returned ++ rs ∧ (.overrun ∉ rs → Continues s (rxBytes is) t rs) := by
  induction is generalizing s with
  | nil =>
    cases h
    exact ⟨[], (List.append_nil _).symm, fun _ => .nil _⟩
  | cons i is ih =>
    obtain ⟨u, hu⟩ := exec_isNext i s
    obtain ⟨hi, his⟩ := List.forall_mem_cons.mp his
    obtain ⟨r, hr, hfirst⟩ := continues_exec hi hu
    obtain ⟨rs, hrs, hrest⟩ := ih his ((execAll_cons_of_next hu).symm.trans h)
    refine ⟨r :: rs, by rw [hrs, hr, List.append_assoc]; rfl, fun hno => ?_⟩
    rw [List.mem_cons, not_or] at hno
    rw [rxBytes_cons]
    exact (hfirst (Ne.symm hno.1)).trans (hrest hno.2)

/-- A schedule ended by PARSE.RUN: the end its stream leads to, and the codes on the way. -/
theorem execAll_parseRun {is : List Instr} {s t : State} (his : ∀ i ∈ is, i.isReceive = true)
    (h : execAll (is ++ [.parseRun]) s = .next t) :
    ∃ x rs, t = (drained x []).1.withReturned (s.returned ++ rs ++ [(drained x []).2]) ∧
      (.overrun ∉ rs → Continues s (rxBytes is) x rs) := by
  obtain ⟨x, hx⟩ := noOperationGetsStuck.2 is s
  obtain ⟨rs, hrs, hcont⟩ := continues_execAll his hx
  rw [execAll_append_of_next hx, execAll_singleton, exec_parseRun_eq_drained, hrs] at h
  exact ⟨x, rs, (Host.Outcome.next.inj h).symm, hcont⟩

/-- Settles O37: both schedules lead to the end of PARSE.RUN on the whole stream; that end is no fault, since the first
schedule met none, and so the second has met none. -/
theorem scheduleDoesNotMatter : Obligations.ScheduleDoesNotMatter := by
  unfold Obligations.ScheduleDoesNotMatter
  intro one two s t u hrecv hbytes ht hnofault hu hnooverrun
  obtain ⟨x, rs, rfl, hone⟩ := execAll_parseRun (fun i hi => hrecv i (List.mem_append_left _ hi)) ht
  obtain ⟨y, qs, rfl, htwo⟩ := execAll_parseRun (fun i hi => hrecv i (List.mem_append_right _ hi)) hu
  simp only [State.withReturned, List.append_assoc, List.drop_left, List.mem_append, List.mem_singleton]
    at hnofault hnooverrun ⊢
  have hrs : ∀ r ∈ rs, r.isFault = false := fun r hr => hnofault r (.inl hr)
  have hlast : (drained x []).2.isFault = false := hnofault _ (.inr rfl)
  have hx : drained x [] = drained s (rxBytes one) := by
    rcases hone fun h => nomatch hrs _ h with ⟨_, heq⟩ | ⟨⟨r, hr, hf⟩, _⟩
    · simpa using heq []
    · cases (hrs r hr).symm.trans hf
  rcases htwo fun h => hnooverrun (.inl h) with ⟨hqs, heq⟩ | ⟨_, hfault⟩
  · have hy : drained y [] = drained x [] := by
      rw [hx, hbytes]
      simpa using heq []
    rw [hy]
    refine ⟨fun r hr => hr.elim (hqs r) fun h => h ▸ hlast, rfl, ?_⟩
    simp
  · have hend := hfault []
    rw [List.append_nil, ← hbytes, ← hx, hlast] at hend
    cases hend

end Sys2Proof.Machine
end
